-- ==== Sys2Proof/Word.lean ====
section
/-! DEFINITION. The words of PDMDEC's two ports and the fixed sets of names the operations use: the 32-bit C word and
read-data word (30_encoding.md R83, 10_state.md R38), buffer indices (R61) and status registers (10_state.md R40). -/

namespace Sys2Proof

/-- The 32-bit C word and the read-data word `rdata`. -/
abbrev Word := BitVec 32

/-- One of the two buffers, "identified by index 0/1" (20_memory.md R61). -/
inductive BufIdx where
  | b0
  | b1
  deriving DecidableEq, Repr

/-- The other buffer, `1 - i` (10_state.md R25). -/
def BufIdx.other : BufIdx → BufIdx
  | .b0 => .b1
  | .b1 => .b0

/-- The eight status registers SR0 to SR7 under their names (10_state.md R40); SR6 and SR7 are reserved. -/
inductive StatReg where
  | status
  | flags
  | pos
  | ovfCnt
  | missCnt
  | lostCnt
  | sr6
  | sr7
  deriving DecidableEq, Repr

/-- A word on one of the two ports (30_encoding.md R80): a P word, the number whose `W + 2` bits are
`{raw_ovf, raw_valid, raw_word}` (R81), or a 32-bit C word (R83). -/
inductive PortWord where
  | p (w : Nat)
  | c (w : Word)
  deriving DecidableEq, Repr

end Sys2Proof
end

