-- ==== Sys2Proof/Config.lean ====
section
/-! DEFINITION. The static parameters of PDMDEC (00_scope.md R8 to R10), their derived values, and the free values: what
the spec writes `any(N)` and the choices it leaves to the clock-domain-crossing logic (00_scope.md R7, R11). -/

namespace Sys2Proof

/-- The out-of-range policy `REDUCE` (00_scope.md R8, 40_decimator.md R104). -/
inductive ReducePolicy where
  | clamp
  | trunc
  deriving DecidableEq, Repr

/-- What a DeadlineMiss does, `MISS_POLICY` (00_scope.md R8): `CONTINUE` or `ABORT`. -/
inductive MissPolicy where
  | goOn
  | abort
  deriving DecidableEq, Repr

/-- How the rules about STOPPED are read after an abort, where they disagree. DESIGN CHOICE (assumption 11): the model
takes both readings, as a constant of the configuration record. -/
inductive StoppedReading where
  /-- STOP's pseudocode and RUNSYNC's condition hold in STOPPED as elsewhere (43_control_status.md R172, R176,
  30_encoding.md R92) -/
  | byPseudocode
  /-- STOPPED is final: STOP changes nothing there (prose of R172) and no internal step is enabled
  (70_reset_and_hazards.md R264) -/
  | frozen
  deriving DecidableEq, Repr

/-- The configuration record `cfg`, under the spec's names of its parameters (00_scope.md R8). -/
structure Config where
  /-- width in bits of one RawSampleWord -/
  W : Nat
  /-- oversampling ratio, raw bits per PcmSample -/
  OSR : Nat
  /-- buffer length in samples -/
  L : Nat
  /-- width in bits of one PcmSample as stored -/
  B : Nat
  /-- `REDUCE` -/
  reduce : ReducePolicy
  /-- depth of the notification queue -/
  Q : Nat
  /-- `MISS_POLICY` -/
  missPolicy : MissPolicy
  /-- width in bits of each diagnostic counter -/
  CNTW : Nat
  /-- the model's own, no parameter of R8: which reading of STOPPED holds (assumption 11) -/
  stoppedReading : StoppedReading
  deriving DecidableEq, Repr

namespace Config

/-- The reference configuration (00_scope.md R8); STOPPED is read by the pseudocode (DESIGN CHOICE, assumption 11). -/
def reference : Config :=
  { W := 32, OSR := 256, L := 1024, B := 8, reduce := .clamp, Q := 8, missPolicy := .goOn, CNTW := 16,
    stoppedReading := .byPseudocode }

/-- `ceil(log2 n)`. -/
def clog2 (n : Nat) : Nat := if n ≤ 1 then 0 else Nat.log2 (n - 1) + 1

/-- Words per SampleGroup, `OSR / W`. -/
def G (cfg : Config) : Nat := cfg.OSR / cfg.W

/-- The largest storable sample, `2^B - 1`. -/
def SMAX (cfg : Config) : Nat := 2 ^ cfg.B - 1

/-- Accumulator width, `ceil(log2(OSR + 1))`. -/
def AW (cfg : Config) : Nat := clog2 (cfg.OSR + 1)

/-- Word-counter width, `max(1, ceil(log2 G))`. -/
def GW (cfg : Config) : Nat := max 1 (clog2 cfg.G)

/-- Cursor width, `max(1, ceil(log2 L))`. -/
def CW (cfg : Config) : Nat := max 1 (clog2 cfg.L)

/-- Counter saturation value, `2^CNTW - 1`. -/
def CMAX (cfg : Config) : Nat := 2 ^ cfg.CNTW - 1

/-- `ConfigOK(cfg)` (00_scope.md R9). -/
def ok (cfg : Config) : Bool :=
  decide (1 ≤ cfg.W) && decide (cfg.W ≤ cfg.OSR) && decide (cfg.OSR % cfg.W = 0) && decide (1 ≤ cfg.L) &&
    decide (cfg.L ≤ 2 ^ 24) && decide (1 ≤ cfg.B) && decide (cfg.B ≤ 32) && decide (2 ≤ cfg.Q) &&
    decide (1 ≤ cfg.CNTW) && decide (cfg.CNTW ≤ 32)

/-- The constant `cfgerr`, FLAGS bit `CFG` (00_scope.md R10, 60_exceptions.md R225). -/
def cfgerr (cfg : Config) : Bool := !cfg.ok

/-- FREE VALUE (assumption 7): the value of the `n`-th evaluation of `any(N)`; narrower draws take its low bits. -/
opaque freeWord : Nat → BitVec 32

/-- FREE VALUE (assumption 5): which of the enabled internal steps the crossing logic takes when the environment is
quiet. -/
opaque freeChoice : Nat → Nat

/-- FREE VALUE (assumption 5): the flag bits a FLAGSYNC proposes to copy when the environment is quiet. -/
opaque freeFlags : Nat → BitVec 5

end Config

end Sys2Proof
end

