-- ==== Sys2Proof/Syntax.lean ====
section
/-! DEFINITION. The twelve port operations of PDMDEC, one constructor per row of spec/opcode_table.json (30_encoding.md
R82, R84, R93). -/

namespace Sys2Proof

/-- A port operation: four of the P port (R82), eight of the C port (R84). -/
inductive Instr where
  /-- IDLE (40_decimator.md R101) -/
  | idle
  /-- PUSH `w`, `w` one RawSampleWord as a number (R102) -/
  | push (w : Nat)
  /-- OVF (R107) -/
  | ovf
  /-- PUSHOVF `w` (R108) -/
  | pushovf (w : Nat)
  /-- NOP (43_control_status.md R170) -/
  | nop
  /-- START (R171) -/
  | start
  /-- STOP (R172) -/
  | stop
  /-- TAKE (42_drain_scheduler.md R143) -/
  | take
  /-- READ `idx`, `off` (R144) -/
  | read (idx : BufIdx) (off : BitVec 24)
  /-- DONE (R147) -/
  | done
  /-- RDSTAT `sel` (43_control_status.md R174, R175) -/
  | rdstat (sel : StatReg)
  /-- RSVD7, the reserved C operation (R173) -/
  | rsvd7
  deriving DecidableEq, Repr

end Sys2Proof
end

