-- ==== Sys2Proof/WellFormed.lean ====
section
/-! DEFINITION. Which instructions are well formed. The only operand whose type admits too much is the RawSampleWord, a
number that must fit `W` bits (30_encoding.md R81); every other operand is exact by its type. -/

namespace Sys2Proof

/-- `i` is an operation of a PDMDEC built with `cfg`: a raw word has `cfg.W` bits. -/
def wellFormed (cfg : Config) (i : Instr) : Bool :=
  match i with
  | .push w | .pushovf w => decide (w < 2 ^ cfg.W)
  | .idle | .ovf | .nop | .start | .stop | .take | .read _ _ | .done | .rdstat _ | .rsvd7 => true

end Sys2Proof
end

