-- ==== Sys2Proof/Decode.lean ====
section
/-! DEFINITION. Decoding of the two port formats (30_encoding.md R80 to R88) and, after it, the encoder. Every C word and
every P word of `W + 2` bits decodes; a number with more bits is no P word and is rejected by name. -/

namespace Sys2Proof

/-- Why a port word is rejected. -/
inductive DecodeError where
  /-- the number has bits above the `W + 2` bits of a P word (R81) -/
  | wideWord
  deriving DecidableEq, Repr

/-- `idx` as the one bit of a C word or a queue entry. -/
def BufIdx.toBit : BufIdx → BitVec 1
  | .b0 => 0#1
  | .b1 => 1#1

/-- `idx` from C word bit 24, "taken as a number 0 or 1" (R85). -/
def BufIdx.ofBit (b : Bool) : BufIdx := if b then .b1 else .b0

/-- The number `sel` of a status register (10_state.md R40). -/
def StatReg.toBits : StatReg → BitVec 3
  | .status => 0#3
  | .flags => 1#3
  | .pos => 2#3
  | .ovfCnt => 3#3
  | .missCnt => 4#3
  | .lostCnt => 5#3
  | .sr6 => 6#3
  | .sr7 => 7#3

/-- The status register numbered `n`, for `n` from 0 to 7. -/
def StatReg.numbered : Nat → StatReg
  | 0 => .status
  | 1 => .flags
  | 2 => .pos
  | 3 => .ovfCnt
  | 4 => .missCnt
  | 5 => .lostCnt
  | 6 => .sr6
  | _ => .sr7

/-- `raw_ovf`, P word bit `W + 1` (R81). -/
def rawOvf (cfg : Config) (w : Nat) : Bool := w.testBit (cfg.W + 1)

/-- `raw_valid`, P word bit `W` (R81). -/
def rawValid (cfg : Config) (w : Nat) : Bool := w.testBit cfg.W

/-- `raw_word`, P word bits `[W-1:0]` (R81). -/
def rawWord (cfg : Config) (w : Nat) : Nat := w % 2 ^ cfg.W

/-- The P operation the two control bits select (R82). -/
def selectP (ovf valid : Bool) (w : Nat) : Instr :=
  match ovf, valid with
  | false, false => .idle
  | false, true => .push w
  | true, false => .ovf
  | true, true => .pushovf w

/-- Decoding of a P word. -/
def decodeP (cfg : Config) (w : Nat) : Except DecodeError Instr :=
  if w < 2 ^ (cfg.W + 2) then .ok (selectP (rawOvf cfg w) (rawValid cfg w) (rawWord cfg w)) else .error .wideWord

/-- The field `op`, C word bits `[31:29]` (R83). -/
def cOp (w : Word) : BitVec 3 := w.extractLsb' 29 3

/-- The field `idx`, C word bit 24 (R83). -/
def cIdx (w : Word) : BufIdx := BufIdx.ofBit (w.getLsbD 24)

/-- The field `off`, C word bits `[23:0]` (R83). -/
def cOff (w : Word) : BitVec 24 := w.extractLsb' 0 24

/-- The field `sel`, C word bits `[2:0]` (R83). -/
def cSel (w : Word) : StatReg := StatReg.numbered (w.extractLsb' 0 3).toNat

/-- Decoding of a C word (R84): `op` selects the operation, fields it does not use are ignored (R85). -/
def decodeC (w : Word) : Instr :=
  match (cOp w).toNat with
  | 0 => .nop
  | 1 => .start
  | 2 => .stop
  | 3 => .take
  | 4 => .read (cIdx w) (cOff w)
  | 5 => .done
  | 6 => .rdstat (cSel w)
  | _ => .rsvd7

/-- Decoding of a port word. -/
def decode (cfg : Config) : PortWord → Except DecodeError Instr
  | .p w => decodeP cfg w
  | .c w => .ok (decodeC w)

/-! ## The encoder -/

/-- A P word from its fields, `{raw_ovf, raw_valid, raw_word}` (R81). -/
def packP (cfg : Config) (ovf valid : Bool) (w : Nat) : Nat :=
  ovf.toNat * 2 ^ (cfg.W + 1) + valid.toNat * 2 ^ cfg.W + w

/-- A C word from its fields `op`, `idx`, `off`, the reserved bits 0 (R83). -/
def packC (op : BitVec 3) (idx : BitVec 1) (off : BitVec 24) : Word := op ++ 0#4 ++ idx ++ off

/-- The word of an instruction, ignored fields 0 (R82, R84). -/
def encode (cfg : Config) : Instr → PortWord
  | .idle => .p (packP cfg false false 0)
  | .push w => .p (packP cfg false true w)
  | .ovf => .p (packP cfg true false 0)
  | .pushovf w => .p (packP cfg true true w)
  | .nop => .c (packC 0#3 0#1 0#24)
  | .start => .c (packC 1#3 0#1 0#24)
  | .stop => .c (packC 2#3 0#1 0#24)
  | .take => .c (packC 3#3 0#1 0#24)
  | .read idx off => .c (packC 4#3 idx.toBit off)
  | .done => .c (packC 5#3 0#1 0#24)
  | .rdstat sel => .c (packC 6#3 0#1 (sel.toBits.setWidth 24))
  | .rsvd7 => .c (packC 7#3 0#1 0#24)

/-! ## The opcode table's numbering -/

/-- The port word whose bits are `w` in a row of `nbits` bits of spec/opcode_table.json: rows of at most 32 bits are C
words, the four longer rows are P words of the reference configuration (R93). -/
def tablePortWord (nbits w : Nat) : PortWord :=
  if nbits ≤ 32 then .c (BitVec.ofNat 32 w) else .p w

/-- The instruction the decoder reads from a word of the opcode table, which numbers P words as the reference
configuration lays them out (R93). -/
def decodeTableWord (nbits w : Nat) : Option Instr :=
  (decode Config.reference (tablePortWord nbits w)).toOption

end Sys2Proof
end

