-- ==== Sys2Proof/Machine/State.lean ====
section
/-! DEFINITION. The state of PDMDEC as plain data (10_state.md), the agents' pending steps, the state after RESET
(70_reset_and_hazards.md R250), and the reasons a step can stop. -/

namespace Sys2Proof.Machine

/-- The DrainScheduler states (10_state.md R33). -/
inductive Sched where
  | idle
  | pending
  | draining
  | stopped
  deriving DecidableEq, Repr

/-- The internal steps of SYNC (30_encoding.md R92). FLAGSYNC carries the flag bits the crossing logic proposes to copy
(43_control_status.md R177, assumption 6). -/
inductive SyncStep where
  | runsync
  | deliver
  | retire
  | flagsync (choice : BitVec 5)
  | quiesce
  deriving DecidableEq, Repr

/-- One pending step of an agent (00_scope.md R6), as in a line of a trace (30_encoding.md R89): SRC presents a P word,
HOST presents a C word, SYNC has a turn for one of its steps, RST asserts RESET. -/
inductive Input where
  | src (w : Nat)
  | host (w : Word)
  | sync (k : SyncStep)
  | rst
  deriving DecidableEq, Repr

/-- One written sample of a buffer: its offset and its value (20_memory.md R61). -/
abbrev Cell := Nat × Nat

/-- The buffer memory `buf` (20_memory.md R60): for each buffer the cells written since RESET, by strictly rising offset.
A location that is not listed holds no value: it "counts as never written" (R250). -/
structure Memory where
  buf0 : List Cell
  buf1 : List Cell
  deriving DecidableEq, Repr

/-- The canonical form: offsets strictly rising in both lists, so that equal memories are equal data. -/
abbrev Memory.wf (m : Memory) : Prop :=
  m.buf0.Pairwise (fun a b => a.1 < b.1) ∧ m.buf1.Pairwise (fun a b => a.1 < b.1)

/-- The state: the variables of the table of 10_state.md section 1, the configuration record (constant, assumption 1),
and the model's own `draws` and `inputs` (assumptions 7 and 3). `abort_p` is bit `ABT` of `flagsP` (R29). -/
structure State where
  /-- static parameters; no step writes them -/
  cfg : Config
  /-- `run_p` (R26) -/
  runP : Bool
  /-- `acc` (R22) -/
  acc : Nat
  /-- `wcnt` (R23) -/
  wcnt : Nat
  /-- `cursor` (R24) -/
  cursor : Nat
  /-- `active` (R25) -/
  active : BufIdx
  /-- `q`, oldest entry first (R28) -/
  q : List BufIdx
  /-- `flags_p`: bit 0 `OVF`, 1 `MISS`, 2 `LOST`, 3 `RED`, 4 `ABT` (R29) -/
  flagsP : BitVec 5
  /-- `ovf_cnt` (R30) -/
  ovfCnt : Nat
  /-- `miss_cnt` (R30) -/
  missCnt : Nat
  /-- `lost_cnt` (R30) -/
  lostCnt : Nat
  /-- `buf` (R31) -/
  buf : Memory
  /-- `run_req` (R32) -/
  runReq : Bool
  /-- `stop_req` (R32) -/
  stopReq : Bool
  /-- `sch` (R33) -/
  sch : Sched
  /-- `slot` (R34) -/
  slot : BufIdx
  /-- `ack_pend` (R35) -/
  ackPend : Bool
  /-- `flags_c`, layout of `flags_p` (R37) -/
  flagsC : BitVec 5
  /-- `proto` (R37) -/
  proto : Bool
  /-- `rdata` (R38) -/
  rdata : Word
  /-- the model's own: how many free values have been drawn (assumption 7) -/
  draws : Nat
  /-- the model's own: the steps the agents have still to take, next one first (assumption 3); a finite part of a schedule,
  the endless ones being `EndlessRun` of Machine/Fairness.lean -/
  inputs : List Input
  deriving DecidableEq, Repr

/-- Reasons to stop with a fault. There are none: "PDMDEC has no exception mechanism in the processor sense" and every
abnormal condition is a sticky flag (60_exceptions.md R220). Safe: no step of the machine ends in a fault. -/
inductive Fault where
  deriving DecidableEq, Repr

/-- Reasons for which the model gives a step no meaning. -/
inductive Refusal where
  /-- An instruction without a meaning yet; raised by arms of `exec`. Safe: nothing can be proved of its effect. -/
  | notModelled (mnemonic : String)
  /-- PUSH, OVF or PUSHOVF obeyed under a configuration for which `ConfigOK` fails: "No other rule's result is defined
  for such a configuration" (00_scope.md R10). Raised by their meanings, in states no run reaches. Safe. -/
  | configurationError
  /-- SRC presents a number that is no P word of this configuration (30_encoding.md R81). Raised by `step`. Safe. -/
  | notAPortWord
  deriving DecidableEq, Repr

/-- Every variable at its value after RESET (70_reset_and_hazards.md R250), for a given configuration, with nothing
pending and no free value drawn. -/
def State.initial (cfg : Config) : State :=
  { cfg := cfg
    runP := false
    acc := 0
    wcnt := 0
    cursor := 0
    active := .b0
    q := []
    flagsP := 0#5
    ovfCnt := 0
    missCnt := 0
    lostCnt := 0
    buf := { buf0 := [], buf1 := [] }
    runReq := false
    stopReq := false
    sch := .idle
    slot := .b0
    ackPend := false
    flagsC := 0#5
    proto := false
    rdata := 0#32
    draws := 0
    inputs := [] }

/-- The machine right after RESET, in the reference configuration. -/
def State.reset : State := State.initial Config.reference

end Sys2Proof.Machine
end

