-- ==== Sys2Proof/Machine/Operands.lean ====
section
/-! DEFINITION. Operand values and the layouts a host reads: the population count of a raw word (00_scope.md R11), the
numbers of the scheduler states (10_state.md R33) and the status register contents (10_state.md R40). -/

namespace Sys2Proof.Machine

/-- `popcount_n(v)`: the number of bits of the `n`-bit value `v` that are 1 (00_scope.md R11). -/
def popcount : Nat → Nat → Nat
  | 0, _ => 0
  | n + 1, v => popcount n v + (v.testBit n).toNat

/-- The encoding of `sch` (10_state.md R33). -/
def Sched.toBits : Sched → BitVec 2
  | .idle => 0#2
  | .pending => 1#2
  | .draining => 2#2
  | .stopped => 3#2

/-- SR0 `STATUS`: `zext_32({stop_req, run_req, slot, sch[1:0]})` (43_control_status.md R174). -/
def statusWord (s : State) : Word :=
  (BitVec.ofBool s.stopReq ++ BitVec.ofBool s.runReq ++ s.slot.toBit ++ s.sch.toBits).setWidth 32

/-- SR1 `FLAGS`: `zext_32({proto, cfgerr, flags_c[4:0]})` (R174). -/
def flagsWord (s : State) : Word :=
  (BitVec.ofBool s.proto ++ BitVec.ofBool s.cfg.cfgerr ++ s.flagsC).setWidth 32

/-- SR2 `POS`: `{active, 0[6:0], zext_24(cursor)}` (R175). -/
def posWord (s : State) : Word := s.active.toBit ++ 0#7 ++ BitVec.ofNat 24 s.cursor

/-- What a status register holds when it reads exactly (R174, R175). -/
def statWord (s : State) : StatReg → Word
  | .status => statusWord s
  | .flags => flagsWord s
  | .pos => posWord s
  | .ovfCnt => BitVec.ofNat 32 s.ovfCnt
  | .missCnt => BitVec.ofNat 32 s.missCnt
  | .lostCnt => BitVec.ofNat 32 s.lostCnt
  | .sr6 => 0#32
  | .sr7 => 0#32

/-- Whether a status register's content is producer-domain state (10_state.md R40, R41). -/
def producerHeld : StatReg → Bool
  | .pos | .ovfCnt | .missCnt | .lostCnt => true
  | .status | .flags | .sr6 | .sr7 => false

end Sys2Proof.Machine
end

