-- ==== Sys2Proof/Machine/Flags.lean ====
section
/-! DEFINITION. The sticky flags and their counters, and `raise`, the one operation by which every abnormal condition of
PDMDEC is recorded (60_exceptions.md R220, R221). It is what the machine has in place of taking an exception: nothing is
saved, nothing is vectored, no control is transferred (R234). -/

namespace Sys2Proof.Machine

/-- The producer-domain flags (10_state.md R29). -/
inductive PFlag where
  | ovf
  | miss
  | lost
  | red
  | abt
  deriving DecidableEq, Repr

/-- The flag's bit number, its cause code (60_exceptions.md R230). -/
def PFlag.bit : PFlag → Nat
  | .ovf => 0
  | .miss => 1
  | .lost => 2
  | .red => 3
  | .abt => 4

/-- The flag's bit as a mask over `flags_p`. -/
def PFlag.mask (f : PFlag) : BitVec 5 := BitVec.twoPow 5 f.bit

/-- Whether a flag is 1 in a view of the flags, `flags_p` or `flags_c`. -/
def hasFlag (v : BitVec 5) (f : PFlag) : Bool := v.getLsbD f.bit

/-- `abort_p`, the same bit as `flags_p.ABT` (10_state.md R29). -/
def State.abortP (s : State) : Bool := hasFlag s.flagsP .abt

/-- `cap`: the producer obeys its port (10_state.md R26). -/
def State.cap (s : State) : Bool := s.runP && !s.abortP

/-- STOPPED under the reading that lets nothing of the control state change in it (assumption 11). -/
def State.isFrozen (s : State) : Bool := decide (s.sch = .stopped) && decide (s.cfg.stoppedReading = .frozen)

/-- `sat_inc(c)` (00_scope.md R11). -/
def satInc (cfg : Config) (c : Nat) : Nat := if c < cfg.CMAX then c + 1 else cfg.CMAX

/-- The flag's bit set; flags already 1 stay 1. -/
def setFlag (f : PFlag) (s : State) : State := { s with flagsP := s.flagsP ||| f.mask }

/-- `raise F` for a producer flag: the flag and, for `OVF`, `MISS` and `LOST`, its counter (60_exceptions.md R221). -/
def raise (f : PFlag) (s : State) : State :=
  match f with
  | .ovf => setFlag .ovf { s with ovfCnt := satInc s.cfg s.ovfCnt }
  | .miss => setFlag .miss { s with missCnt := satInc s.cfg s.missCnt }
  | .lost => setFlag .lost { s with lostCnt := satInc s.cfg s.lostCnt }
  | .red => setFlag .red s
  | .abt => setFlag .abt s

/-- `raise PROTO`, the consumer-domain flag without a counter (60_exceptions.md R228). -/
def raiseProto (s : State) : State := { s with proto := true }

/-- The flag bits still to be copied to the consumer's view. -/
def missingFlags (s : State) : BitVec 5 := s.flagsP &&& ~~~s.flagsC

/-- The set `S` of one FLAGSYNC (43_control_status.md R177): the proposed bits that are missing, or all missing ones when
the proposal names none. It is non-empty whenever a bit is missing, and every non-empty set of missing bits is the `S` of
the proposal equal to it. -/
def copiedFlags (choice : BitVec 5) (s : State) : BitVec 5 :=
  if choice &&& missingFlags s = 0#5 then missingFlags s else choice &&& missingFlags s

end Sys2Proof.Machine
end

