-- ==== Sys2Proof/Machine/Ops.lean ====
section
/-! DEFINITION. The shared operations over the buffer memory (20_memory.md R60 to R67), the free values drawn in its
place (`any(N)`), and the double buffer's sub-steps write, swap and notify (41_double_buffer.md R120 to R127). -/

namespace Sys2Proof.Machine

/-- The value a buffer holds at an offset; none where nothing has been written since RESET. -/
def cellGet : List Cell → Nat → Option Nat
  | [], _ => none
  | (a, v) :: rest, k => if k = a then some v else cellGet rest k

/-- A buffer with the value `v` at offset `k`, offsets kept strictly rising. -/
def cellPut : List Cell → Nat → Nat → List Cell
  | [], k, v => [(k, v)]
  | (a, u) :: rest, k, v =>
    if k < a then (k, v) :: (a, u) :: rest else if k = a then (k, v) :: rest else (a, u) :: cellPut rest k v

/-- The cells of one buffer. -/
def Memory.cells (m : Memory) : BufIdx → List Cell
  | .b0 => m.buf0
  | .b1 => m.buf1

/-- `buf[i][o]`: the sample stored there, if one has been since RESET. -/
def Memory.get (m : Memory) (i : BufIdx) (o : Nat) : Option Nat := cellGet (m.cells i) o

/-- The memory with `buf[i][o] = v`. -/
def Memory.put (m : Memory) (i : BufIdx) (o v : Nat) : Memory :=
  match i with
  | .b0 => { m with buf0 := cellPut m.buf0 o v }
  | .b1 => { m with buf1 := cellPut m.buf1 o v }

/-- `MemRead((i, o), 1)` (20_memory.md R66): none stands for `any(B)`, which is what a READ returns past the end of the
buffer, of the buffer the producer owns while it captures, and of a location never written. -/
def memRead (s : State) (i : BufIdx) (o : Nat) : Option Nat :=
  if s.cfg.L ≤ o then none else if s.cap && decide (i = s.active) then none else s.buf.get i o

/-- `MemWrite((i, o), 1, v)` (R67). -/
def memWrite (i : BufIdx) (o v : Nat) (s : State) : State := { s with buf := s.buf.put i o v }

/-- The value of `any(32)` drawn in this state (00_scope.md R11). -/
def anyWord (s : State) : Word := Config.freeWord s.draws

/-- The value of `any(B)` drawn in this state, zero-extended. -/
def anySample (s : State) : Word := BitVec.ofNat 32 ((Config.freeWord s.draws).toNat % 2 ^ s.cfg.B)

/-- `rdata` written with a specified value (10_state.md R38). -/
def setRdata (v : Word) (s : State) : State := { s with rdata := v }

/-- `rdata` written with a free value; the next draw is another one. -/
def drawRdata (v : Word) (s : State) : State := { s with rdata := v, draws := s.draws + 1 }

/-- The DeadlineMiss check of a swap (41_double_buffer.md R126): a request is still unretired. -/
def missCheck (s : State) : State :=
  if s.q = [] then s
  else
    match s.cfg.missPolicy with
    | .goOn => raise .miss s
    | .abort => raise .abt (raise .miss s)

/-- The queue append of a swap, or the drop of the request when the queue is full (R127). -/
def appendRequest (old : BufIdx) (s : State) : State :=
  if s.q.length < s.cfg.Q then { s with q := s.q ++ [old] } else raise .lost s

/-- `notify(old)` (R125): the check, then the append, both on the queue as it was before the step. -/
def notify (old : BufIdx) (s : State) : State := appendRequest old (missCheck s)

/-- `swap()` (R122): the cursor restarts, the roles flip, the request names the buffer that was active. -/
def swap (s : State) : State := notify s.active { s with cursor := 0, active := s.active.other }

/-- `write(v)` (R120): the sample goes to the active buffer at the cursor; the write at the last offset swaps (R121). -/
def writeSample (v : Nat) (s : State) : State :=
  if s.cursor < s.cfg.L - 1 then { memWrite s.active s.cursor v s with cursor := s.cursor + 1 }
  else swap (memWrite s.active s.cursor v s)

end Sys2Proof.Machine
end

