-- ==== Sys2Proof/Machine/Control.lean ====
section
/-! DEFINITION. The control and status C port operations NOP, START, STOP, RDSTAT, RSVD7 (43_control_status.md R170 to
R175). -/

namespace Sys2Proof.Machine

/-- NOP (R170): nothing. -/
def execNop (s : State) : Host.Outcome State Fault Refusal := .next s

/-- Whether a START is accepted (R171). -/
def startAccepted (s : State) : Bool := decide (s.sch = .idle) && !s.runReq && !s.stopReq && !s.cfg.cfgerr

/-- START (R171). -/
def execStart (s : State) : Host.Outcome State Fault Refusal :=
  .next (if startAccepted s then { s with runReq := true } else raiseProto s)

/-- STOP (R172): accepted in every state; in STOPPED it writes what its pseudocode says or changes nothing, as the reading
of STOPPED has it (assumption 11). -/
def execStop (s : State) : Host.Outcome State Fault Refusal :=
  .next (if s.isFrozen then s else { s with runReq := false, stopReq := true })

/-- RDSTAT `sel`: producer-held registers read `any(32)` while `cap` holds (R175), all others exactly (R174). -/
def execRdstat (sel : StatReg) (s : State) : Host.Outcome State Fault Refusal :=
  .next (if s.cap && producerHeld sel then drawRdata (anyWord s) s else setRdata (statWord s sel) s)

/-- RSVD7 (R173): the reserved operation only raises PROTO. -/
def execRsvd7 (s : State) : Host.Outcome State Fault Refusal := .next (raiseProto s)

end Sys2Proof.Machine
end

