-- ==== Sys2Proof/Machine/Producer.lean ====
section
/-! DEFINITION. The decimator and the four P port operations IDLE, PUSH, OVF, PUSHOVF (40_decimator.md). -/

namespace Sys2Proof.Machine

/-- The sample `reduce(v)` stores: `v` when it fits, else clamped or truncated (40_decimator.md R104). -/
def reduceValue (cfg : Config) (v : Nat) : Nat :=
  if v ≤ cfg.SMAX then v
  else
    match cfg.reduce with
    | .clamp => cfg.SMAX
    | .trunc => v % 2 ^ cfg.B

/-- The flag side of `reduce(v)`: `RED` is raised exactly when `v` exceeds `SMAX` (R104). -/
def reduceFlag (v : Nat) (s : State) : State := if v ≤ s.cfg.SMAX then s else raise .red s

/-- The accumulation that completes a SampleGroup with count `v`: the group restarts and `reduce(v)` is written
(R102). -/
def completeGroup (v : Nat) (s : State) : State :=
  writeSample (reduceValue s.cfg v) { reduceFlag v s with acc := 0, wcnt := 0 }

/-- PUSH obeyed: one raw word is accumulated (R102). -/
def acceptWord (w : Nat) (s : State) : State :=
  if s.wcnt < s.cfg.G - 1 then { s with acc := s.acc + popcount s.cfg.W w, wcnt := s.wcnt + 1 }
  else completeGroup (s.acc + popcount s.cfg.W w) s

/-- OVF obeyed: one HardwareOverflow report (R107). -/
def reportOverflow (s : State) : State := raise .ovf s

/-- A P operation's gate: nothing happens unless the producer is capturing (10_state.md R26, 40_decimator.md R106); a
failing configuration gives an obeyed operation no defined result (00_scope.md R10, assumption 9). -/
def whenCapturing (effect : State → State) (s : State) : Host.Outcome State Fault Refusal :=
  if s.cap then if s.cfg.ok then .next (effect s) else .refused .configurationError else .next s

/-- IDLE (R101): nothing. -/
def execIdle (s : State) : Host.Outcome State Fault Refusal := .next s

/-- PUSH `w` (R102, R106). -/
def execPush (w : Nat) (s : State) : Host.Outcome State Fault Refusal := whenCapturing (acceptWord w) s

/-- OVF (R107). -/
def execOvf (s : State) : Host.Outcome State Fault Refusal := whenCapturing reportOverflow s

/-- PUSHOVF `w` (R108): both effects on the state before the step; they write disjoint variables, and the report comes
first here because it leaves what PUSH reads as it was. -/
def execPushovf (w : Nat) (s : State) : Host.Outcome State Fault Refusal :=
  whenCapturing (fun t => acceptWord w (reportOverflow t)) s

end Sys2Proof.Machine
end

