-- ==== Sys2Proof/Machine/Scheduler.lean ====
section
/-! DEFINITION. The drain scheduler's C port operations TAKE, READ, DONE (42_drain_scheduler.md R143, R144, R147). -/

namespace Sys2Proof.Machine

/-- TAKE (R143): the consumer accepts the pending DrainRequest. -/
def execTake (s : State) : Host.Outcome State Fault Refusal :=
  .next (if s.sch = .pending then { s with sch := .draining } else raiseProto s)

/-- READ `idx`, `off` (R144): never rejected; all 24 bits of `off` are compared with `L` (30_encoding.md R85). -/
def execRead (idx : BufIdx) (off : BitVec 24) (s : State) : Host.Outcome State Fault Refusal :=
  match memRead s idx off.toNat with
  | some v => .next (setRdata (BitVec.ofNat 32 v) s)
  | none => .next (drawRdata (anySample s) s)

/-- DONE (R147): the consumer has finished; the acknowledge is on its way to the producer domain. -/
def execDone (s : State) : Host.Outcome State Fault Refusal :=
  .next (if s.sch = .draining then { s with sch := .idle, ackPend := true } else raiseProto s)

end Sys2Proof.Machine
end

