-- ==== Sys2Proof/Machine/Dispatch.lean ====
section
/-! DEFINITION. One arm per instruction: the meaning of each port operation. -/

namespace Sys2Proof.Machine

def exec (i : Instr) (s : State) : Host.Outcome State Fault Refusal :=
  match i with
  -- P port
  | .idle => Sys2Proof.Machine.execIdle s
  | .push w => Sys2Proof.Machine.execPush w s
  | .ovf => Sys2Proof.Machine.execOvf s
  | .pushovf w => Sys2Proof.Machine.execPushovf w s
  -- C port
  | .nop => Sys2Proof.Machine.execNop s
  | .start => Sys2Proof.Machine.execStart s
  | .stop => Sys2Proof.Machine.execStop s
  | .take => Sys2Proof.Machine.execTake s
  | .read idx off => Sys2Proof.Machine.execRead idx off s
  | .done => Sys2Proof.Machine.execDone s
  | .rdstat sel => Sys2Proof.Machine.execRdstat sel s
  | .rsvd7 => Sys2Proof.Machine.execRsvd7 s

end Sys2Proof.Machine
end

