-- ==== Sys2Proof/Machine/Fetch.lean ====
section
/-! DEFINITION. Where the next operation comes from: the pending steps of the agents (assumption 3), how a port word is
put before them, and how a word on a port is run. -/

namespace Sys2Proof.Machine

/-- The pending step by which a word arrives on its port: SRC drives the P port, HOST the C port (30_encoding.md R80). -/
def portInput : PortWord → Input
  | .p w => .src w
  | .c w => .host w

/-- The state with a port word presented next, before everything else that is pending. -/
def presentWord (w : PortWord) (s : State) : State := { s with inputs := portInput w :: s.inputs }

/-- The state with `l` as the pending steps. -/
def withInputs (l : List Input) (s : State) : State := { s with inputs := l }

/-- A word on a port is decoded and its operation executed; a number that is no word of the port is refused
(assumption 12). -/
def runWord (w : PortWord) (s : State) : Host.Outcome State Fault Refusal :=
  match decode s.cfg w with
  | .ok i => exec i s
  | .error .wideWord => .refused .notAPortWord

end Sys2Proof.Machine
end

