-- ==== Sys2Proof/Machine/Reset.lean ====
section
/-! DEFINITION. The step RESET (70_reset_and_hazards.md R250). -/

namespace Sys2Proof.Machine

/-- RESET: every variable takes its reset value; the configuration is not state, and the model's own `draws` and
`inputs` go on (assumptions 3 and 7). -/
def resetStep (s : State) : State := { State.initial s.cfg with draws := s.draws, inputs := s.inputs }

end Sys2Proof.Machine
end

