-- ==== Sys2Proof/Machine/Sync.lean ====
section
/-! DEFINITION. The internal steps of the clock-domain-crossing logic (30_encoding.md R92): RUNSYNC, DELIVER, RETIRE,
FLAGSYNC, QUIESCE; what a turn of SYNC does; and what SYNC does when the environment is quiet (00_scope.md R7). -/

namespace Sys2Proof.Machine

/-- The condition of QUIESCE (43_control_status.md R178, 30_encoding.md R92). After an abort and a STOP it may hold while
`run_p` is 1 and `run_req` is 0; whether RUNSYNC is then enabled in STOPPED is `runsyncEnabled`'s (assumption 11). -/
def quiesceEnabled (s : State) : Bool :=
  (s.stopReq || s.abortP) && !s.cap && decide (s.q = []) && decide (s.sch = .idle) && decide (s.flagsC = s.flagsP)

/-- The condition of DELIVER (42_drain_scheduler.md R145). -/
def deliverEnabled (s : State) : Bool := decide (s.q ≠ []) && decide (s.sch = .idle) && !s.ackPend

/-- The condition of RUNSYNC (43_control_status.md R176); not in STOPPED under the reading by which no internal step is
enabled there (70_reset_and_hazards.md R264, assumption 11). -/
def runsyncEnabled (s : State) : Bool := (s.runP != s.runReq) && !s.isFrozen

/-- When an internal step is enabled (30_encoding.md R92). -/
def syncEnabled (k : SyncStep) (s : State) : Bool :=
  match k with
  | .runsync => runsyncEnabled s
  | .deliver => deliverEnabled s
  | .retire => s.ackPend
  | .flagsync _ => decide (s.flagsC ≠ s.flagsP)
  | .quiesce => quiesceEnabled s

/-- RUNSYNC (43_control_status.md R176). -/
def runsync (s : State) : State := { s with runP := s.runReq }

/-- DELIVER (42_drain_scheduler.md R145): the head of the queue stays there until RETIRE. -/
def deliver (s : State) : State := { s with slot := s.q.headD s.slot, sch := .pending }

/-- RETIRE (42_drain_scheduler.md R146). -/
def retire (s : State) : State := { s with q := s.q.tail, ackPend := false }

/-- FLAGSYNC (43_control_status.md R177). -/
def flagsync (choice : BitVec 5) (s : State) : State := { s with flagsC := s.flagsC ||| copiedFlags choice s }

/-- QUIESCE (43_control_status.md R178). -/
def quiesce (s : State) : State := { s with sch := .stopped }

/-- The effect of an enabled internal step. -/
def syncEffect (k : SyncStep) (s : State) : State :=
  match k with
  | .runsync => runsync s
  | .deliver => deliver s
  | .retire => retire s
  | .flagsync choice => flagsync choice s
  | .quiesce => quiesce s

/-- A turn of SYNC for step `k`: the step if it is enabled, else the turn passes unused (assumption 4). -/
def syncTurn (k : SyncStep) (s : State) : State := if syncEnabled k s then syncEffect k s else s

/-- The internal steps enabled in a state; the flags a FLAGSYNC copies are a free value. -/
def enabledSteps (s : State) : List SyncStep :=
  [.runsync, .deliver, .retire, .flagsync (Config.freeFlags s.draws), .quiesce].filter (fun k => syncEnabled k s)

/-- The `n`-th element of a list, counted modulo its length. -/
def pick {α : Type} (n : Nat) (l : List α) : Option α := l[n % l.length]?

/-- The environment is quiet: SRC presents IDLE and HOST presents NOP (30_encoding.md R86), and SYNC takes one of its
enabled steps, whichever it likes, if there is one: an enabled step "is eventually taken" (00_scope.md R7,
assumption 5). -/
def quietStep (s : State) : State :=
  match pick (Config.freeChoice s.draws) (enabledSteps s) with
  | none => s
  | some k => { syncEffect k s with draws := s.draws + 1 }

end Sys2Proof.Machine
end

