-- ==== Sys2Proof/Machine/Step.lean ====
section
/-! DEFINITION. One atomic step of the transition system (00_scope.md R5, R6): the agent whose step is pending first takes
it; with nothing pending the environment is quiet. -/

namespace Sys2Proof.Machine

/-- One step. -/
def step (s : State) : Host.Outcome State Fault Refusal :=
  match s.inputs with
  | [] => .next (quietStep s)
  | .src w :: rest => runWord (.p w) (withInputs rest s)
  | .host w :: rest => runWord (.c w) (withInputs rest s)
  | .sync k :: rest => .next (syncTurn k (withInputs rest s))
  | .rst :: rest => .next (resetStep (withInputs rest s))

/-- The state in which the word `w` of an opcode-table row of `nbits` bits is the next one presented on its port. -/
def State.withFetchWord (s : State) (nbits w : Nat) : State := presentWord (tablePortWord nbits w) s

end Sys2Proof.Machine
end

