-- ==== Sys2Proof/Machine/Fairness.lean ====
section
/-! DEFINITION. Endless runs, in which every agent may act for ever, and the weak fairness the spec assumes of SYNC
(00_scope.md R6, R7). -/

namespace Sys2Proof.Machine

/-- An endless run: at each moment `n` some agent takes the step `α n`, whichever it is, from the state `σ n`. Nothing is
assumed of when SRC, HOST or RST act (R6, R7). -/
def EndlessRun (σ : Nat → State) (α : Nat → Input) : Prop := ∀ n, step (withInputs [α n] (σ n)) = .next (σ (n + 1))

/-- Two steps of SYNC are the same internal step; the operand of a FLAGSYNC does not matter. -/
def sameStep : SyncStep → SyncStep → Bool
  | .runsync, .runsync | .deliver, .deliver | .retire, .retire | .flagsync _, .flagsync _ | .quiesce, .quiesce => true
  | _, _ => false

/-- The agent's step is a turn of SYNC for the internal step `k`. -/
def takesStep (k : SyncStep) : Input → Bool
  | .sync k' => sameStep k k'
  | .src _ | .host _ | .rst => false

/-- Weak fairness of SYNC (R7): "an internal step whose condition holds and keeps holding is eventually taken". -/
def WeaklyFair (σ : Nat → State) (α : Nat → Input) : Prop :=
  ∀ k n, (∀ m, n ≤ m → syncEnabled k (σ m) = true) → ∃ m, n ≤ m ∧ takesStep k (α m) = true

end Sys2Proof.Machine
end

