-- ==== Sys2Proof/Machine/Outputs.lean ====
section
/-! DEFINITION. The output signals, each a function of state in the consumer domain (10_state.md R42, 60_exceptions.md
R231). -/

namespace Sys2Proof.Machine

/-- `c_drain_req` -/
def cDrainReq (s : State) : Bool := decide (s.sch = .pending)

/-- `c_drain_idx` -/
def cDrainIdx (s : State) : BufIdx := s.slot

/-- `c_state[1:0]` -/
def cState (s : State) : BitVec 2 := s.sch.toBits

/-- `c_stopped` -/
def cStopped (s : State) : Bool := decide (s.sch = .stopped)

/-- `c_fault`: every flag but `RED`, which "is information, not an error". -/
def cFault (s : State) : Bool :=
  hasFlag s.flagsC .ovf || hasFlag s.flagsC .miss || hasFlag s.flagsC .lost || hasFlag s.flagsC .abt ||
    s.cfg.cfgerr || s.proto

/-- `c_rdata[31:0]` -/
def cRdata (s : State) : Word := s.rdata

end Sys2Proof.Machine
end

