-- ==== Sys2Proof/Machine/Trace.lean ====
section
/-! DEFINITION. Trace lines and the pseudo-operations GROUP and DRAIN as lists of pending steps (30_encoding.md R89, R90),
and the samples a group stands for (40_decimator.md R103). -/

namespace Sys2Proof.Machine

/-- The trace line of a port operation (R89). -/
def line (cfg : Config) (i : Instr) : Input := portInput (encode cfg i)

/-- `SRC: GROUP w0, ..., w(G-1)` (R90). -/
def groupLines (cfg : Config) (ws : List Nat) : List Input := ws.map (fun w => line cfg (.push w))

/-- `HOST: READ i, 0` to `HOST: READ i, L-1` (R90). -/
def readLines (cfg : Config) (i : BufIdx) : List Input :=
  (List.range cfg.L).map (fun o => line cfg (.read i (BitVec.ofNat 24 o)))

/-- `HOST: DRAIN i` (R90). -/
def drainLines (cfg : Config) (i : BufIdx) : List Input :=
  line cfg .take :: (readLines cfg i ++ [line cfg .done])

/-- The count of set bits of a group, `popcount_W(w0) + ... + popcount_W(w(G-1))` (R103). -/
def groupCount (cfg : Config) (ws : List Nat) : Nat := (ws.map (popcount cfg.W)).sum

/-- `decimate(group)` (R103). -/
def decimate (cfg : Config) (ws : List Nat) : Nat := reduceValue cfg (groupCount cfg ws)

end Sys2Proof.Machine
end

