-- ==== Sys2Proof/Machine/WavWriter.lean ====
section
/-! DEFINITION. The host's WavWriter, software outside PDMDEC (44_host_contract.md R204 to R208, assumption 14): a file is
its bytes, and whether the file system fails an operation is an input of that operation. -/

namespace Sys2Proof.Wav

/-- A byte of the file. -/
abbrev Byte := BitVec 8

/-- What `open` is given beside the path (44_host_contract.md R204). -/
structure Params where
  sampleRate : Nat
  bitsPerSample : Nat
  channels : Nat
  deriving DecidableEq, Repr

/-- A writer: its parameters and the file written so far. -/
structure Writer where
  params : Params
  file : List Byte
  deriving DecidableEq, Repr

/-- StorageFailure, "surfaced to the caller, not retried" (R205): which operation the file system failed. -/
inductive StorageFailure where
  | onOpen
  | onWrite
  | onClose
  deriving DecidableEq, Repr

/-- A multi-byte field of `n` bytes, least significant byte first (R206). -/
def leBytes : Nat → Nat → List Byte
  | 0, _ => []
  | n + 1, v => BitVec.ofNat 8 v :: leBytes n (v / 256)

/-- "RIFF" -/
def riffId : List Byte := [0x52, 0x49, 0x46, 0x46]

/-- "WAVE" -/
def waveId : List Byte := [0x57, 0x41, 0x56, 0x45]

/-- "fmt " -/
def fmtId : List Byte := [0x66, 0x6D, 0x74, 0x20]

/-- "data" -/
def dataId : List Byte := [0x64, 0x61, 0x74, 0x61]

/-- BlockAlign (R206). DESIGN CHOICE (assumption 20): `BitsPerSample/8` is rounded down; the spec covers 8 bits only. -/
def blockAlign (p : Params) : Nat := p.channels * (p.bitsPerSample / 8)

/-- The 44 header bytes, given the two size fields (R206). -/
def header (p : Params) (chunkSize dataSize : Nat) : List Byte :=
  riffId ++ leBytes 4 chunkSize ++ waveId ++ fmtId ++ leBytes 4 16 ++ leBytes 2 1 ++ leBytes 2 p.channels ++
    leBytes 4 p.sampleRate ++ leBytes 4 (p.sampleRate * blockAlign p) ++ leBytes 2 (blockAlign p) ++
    leBytes 2 p.bitsPerSample ++ dataId ++ leBytes 4 dataSize

/-- `open`: a provisional header whose size fields are zero (R204, R207). -/
def openFile (fails : Bool) (p : Params) : Except StorageFailure Writer :=
  if fails then .error .onOpen else .ok { params := p, file := header p 0 0 }

/-- `write`: raw PCM bytes are appended (R204). -/
def writeBytes (fails : Bool) (bytes : List Byte) (w : Writer) : Except StorageFailure Writer :=
  if fails then .error .onWrite else .ok { w with file := w.file ++ bytes }

/-- Four bytes of a file overwritten in place with a number, least significant byte first. -/
def patch (off v : Nat) (file : List Byte) : List Byte := file.take off ++ leBytes 4 v ++ file.drop (off + 4)

/-- `close`: ChunkSize and SubChunk2Size are patched in place (R207); the result is the finished file. DESIGN CHOICE
(assumption 19): no pad byte follows an odd number of data bytes, and ChunkSize counts none. -/
def closeFile (fails : Bool) (w : Writer) : Except StorageFailure (List Byte) :=
  if fails then .error .onClose
  else .ok (patch 40 (w.file.length - 44) (patch 4 (36 + (w.file.length - 44)) w.file))

end Sys2Proof.Wav
end

