-- ==== Sys2Proof/Safety.lean ====
section
/-! DEFINITION. Runs of the machine and the invariants the spec gives its state (10_state.md R22 to R37, 41_double_buffer.md
R124), in the terms the claims use. -/

namespace Sys2Proof.Machine

/-- `n` steps, stopping at the first refusal. -/
def run : Nat → State → Host.Outcome State Fault Refusal
  | 0, s => .next s
  | n + 1, s =>
    match step s with
    | .next t => run n t
    | .fault r => .fault r
    | .refused r => .refused r

/-- The step taken next is not RESET. -/
def notReset (s : State) : Prop := s.inputs.head? ≠ some .rst

/-- The flag bits of `a` are all flag bits of `b`. -/
def flagsLe (a b : BitVec 5) : Prop := a &&& ~~~b = 0#5

/-- A sample is stored at `(i, o)`: something has been written there since RESET. -/
def written (s : State) (i : BufIdx) (o : Nat) : Prop := (s.buf.get i o).isSome = true

/-- The invariants of the state, each of which every step keeps. -/
structure StateInv (s : State) : Prop where
  /-- no capture is requested under a failing configuration (43_control_status.md R171) -/
  requestConfigured : s.runReq = true → s.cfg.ok = true
  /-- no capture runs under a failing configuration (00_scope.md R10) -/
  captureConfigured : s.runP = true → s.cfg.ok = true
  /-- after `k` words of a group `acc` is at most `k × W`, and 0 whenever `wcnt = 0` (10_state.md R22) -/
  accBound : s.acc ≤ s.wcnt * s.cfg.W
  /-- `wcnt` is 0 to `G - 1` (R23) -/
  wcntRange : s.cfg.ok = true → s.wcnt < s.cfg.G
  /-- `cursor` is 0 to `L - 1` (R24) -/
  cursorRange : s.cfg.ok = true → s.cursor < s.cfg.L
  /-- `q` holds at most `Q` entries (R28) -/
  queueBound : s.q.length ≤ s.cfg.Q
  /-- counters stop at `CMAX` (R30) -/
  ovfBound : s.ovfCnt ≤ s.cfg.CMAX
  missBound : s.missCnt ≤ s.cfg.CMAX
  lostBound : s.lostCnt ≤ s.cfg.CMAX
  /-- the memory's canonical form -/
  memWf : s.buf.wf
  /-- every stored sample lies in its buffer and fits `B` bits (R31) -/
  samplesFit : ∀ i o v, s.buf.get i o = some v → o < s.cfg.L ∧ v ≤ s.cfg.SMAX
  /-- the active buffer is written below the cursor (41_double_buffer.md R121) -/
  filledBelow : ∀ o, o < s.cursor → written s s.active o
  /-- a buffer whose request is queued has been filled (R122) -/
  queuedFilled : ∀ i, i ∈ s.q → ∀ o, o < s.cfg.L → written s i o
  /-- an acknowledge is pending only for a queued request, in IDLE (10_state.md R35) -/
  ackHeld : s.ackPend = true → s.q ≠ [] ∧ s.sch = .idle
  /-- the request offered or being drained is the head of the queue (R36) -/
  offeredIsHead : s.sch = .pending ∨ s.sch = .draining → s.q.head? = some s.slot ∧ s.ackPend = false
  /-- what STOPPED implies (R36), and why it was entered (43_control_status.md R178) -/
  stoppedFinal : s.sch = .stopped →
    s.q = [] ∧ s.ackPend = false ∧ s.cap = false ∧ s.flagsC = s.flagsP ∧ (s.stopReq = true ∨ s.abortP = true)
  /-- a bit of `flags_c` is 1 only if the same bit of `flags_p` is (10_state.md R37) -/
  viewLags : flagsLe s.flagsC s.flagsP
  /-- a STOP withdraws the run request for good (43_control_status.md R171, R172) -/
  stopHeld : s.stopReq = true → s.runReq = false

/-- The flags and counters agree (60_exceptions.md R221 to R229): a counted flag is set exactly when its counter is not
0; `LOST` never without `MISS`, nor counted more often; `ABT` only by a DeadlineMiss under the ABORT policy; `RED` only
where a count can exceed `SMAX`. -/
structure FlagsAgree (s : State) : Prop where
  ovf : hasFlag s.flagsP .ovf = true ↔ 0 < s.ovfCnt
  miss : hasFlag s.flagsP .miss = true ↔ 0 < s.missCnt
  lost : hasFlag s.flagsP .lost = true ↔ 0 < s.lostCnt
  lostLeMiss : s.lostCnt ≤ s.missCnt
  abort : hasFlag s.flagsP .abt = true → hasFlag s.flagsP .miss = true ∧ s.cfg.missPolicy = .abort
  reduced : hasFlag s.flagsP .red = true → s.cfg.SMAX < s.cfg.OSR

/-- The last `n` requests of swaps that alternate, when buffer `a` is the active one now, oldest first. -/
def lastRequests (a : BufIdx) : Nat → List BufIdx
  | 0 => []
  | n + 1 => lastRequests a.other n ++ [a.other]

/-- "Consecutive entries of `q` alternate between 0 and 1 as long as no DrainRequest has been dropped", and the newest
names the buffer that is not active (10_state.md R28, 41_double_buffer.md R126). -/
def QueueAlternates (s : State) : Prop :=
  hasFlag s.flagsP .lost = false → s.q = lastRequests s.active s.q.length

/-- As long as no DeadlineMiss has been raised, at most one request is unretired, and it names the buffer that is not
active (20_memory.md R73). -/
def NoMissOneRequest (s : State) : Prop :=
  hasFlag s.flagsP .miss = false → s.q = [] ∨ s.q = [s.active.other]

/-- The producer-domain variables that only steps of SRC write (10_state.md R27), the buffer memory (R31) and the
configuration are the same in both states. -/
structure ProducerSame (s t : State) : Prop where
  cfg : t.cfg = s.cfg
  acc : t.acc = s.acc
  wcnt : t.wcnt = s.wcnt
  cursor : t.cursor = s.cursor
  active : t.active = s.active
  flagsP : t.flagsP = s.flagsP
  ovfCnt : t.ovfCnt = s.ovfCnt
  missCnt : t.missCnt = s.missCnt
  lostCnt : t.lostCnt = s.lostCnt
  buf : t.buf = s.buf

/-- Everything that no P operation writes is the same in both states: the consumer-domain variables (60_exceptions.md
R236), the handshake bit, `run_p`, and the configuration. -/
structure ConsumerSame (s t : State) : Prop where
  cfg : t.cfg = s.cfg
  runP : t.runP = s.runP
  runReq : t.runReq = s.runReq
  stopReq : t.stopReq = s.stopReq
  sch : t.sch = s.sch
  slot : t.slot = s.slot
  ackPend : t.ackPend = s.ackPend
  flagsC : t.flagsC = s.flagsC
  proto : t.proto = s.proto
  rdata : t.rdata = s.rdata

/-- A state some run from reset leads to, in some configuration and for some pending steps. -/
def Reachable (s : State) : Prop :=
  ∃ cfg l d n, run n { State.initial cfg with inputs := l, draws := d } = .next s

end Sys2Proof.Machine
end

