-- ==== Sys2Proof/Certificates/Slice0/Obligations.lean ====
section
/-! DEFINITION. The statements about the model, each from a numbered rule of spec/ or a section of it (OBLIGATIONS.json
names which). -/

open Sys2Proof Sys2Proof.Machine

/-! ## Encoding -/

/-- Words written out from the tables of 30_encoding.md R82 and R84 decode to the operations they stand for. -/
def Obligations.OpcodeTableWordsDecode : Prop :=
  decode Config.reference (.p 0x0DEADBEEF) = .ok .idle ∧
  decode Config.reference (.p 0x10000FFFF) = .ok (.push 0x0000FFFF) ∧
  decode Config.reference (.p 0x212345678) = .ok .ovf ∧
  decode Config.reference (.p 0x3FFFFFFFF) = .ok (.pushovf 0xFFFFFFFF) ∧
  decode Config.reference (.c 0x1FFFFFFF#32) = .ok .nop ∧
  decode Config.reference (.c 0x3ABCDEF0#32) = .ok .start ∧
  decode Config.reference (.c 0x5FFFFFFF#32) = .ok .stop ∧
  decode Config.reference (.c 0x60000000#32) = .ok .take ∧
  decode Config.reference (.c 0x9F000010#32) = .ok (.read .b1 16#24) ∧
  decode Config.reference (.c 0xA0000000#32) = .ok .done ∧
  decode Config.reference (.c 0xC0000009#32) = .ok (.rdstat .flags) ∧
  decode Config.reference (.c 0xFFFFFFFF#32) = .ok .rsvd7

/-- R84, R85: `op` alone selects the C operation; `idx`, `off` and `sel` are read where they are used and ignored, with the
reserved bits, everywhere else. -/
def Obligations.CWordsDecodeByTheirOpField : Prop :=
  ∀ (cfg : Config) (op : BitVec 3) (reserved : BitVec 4) (idx : BitVec 1) (off : BitVec 24),
    decode cfg (.c (op ++ reserved ++ idx ++ off)) =
      .ok (match op.toNat with
        | 0 => .nop
        | 1 => .start
        | 2 => .stop
        | 3 => .take
        | 4 => .read (if idx = 0#1 then .b0 else .b1) off
        | 5 => .done
        | 6 => .rdstat (match off.toNat % 8 with
            | 0 => .status
            | 1 => .flags
            | 2 => .pos
            | 3 => .ovfCnt
            | 4 => .missCnt
            | 5 => .lostCnt
            | 6 => .sr6
            | _ => .sr7)
        | _ => .rsvd7)

/-- R82: the two control bits select the P operation, whatever `W` is. -/
def Obligations.PWordsDecodeByTheirControlBits : Prop :=
  ∀ (cfg : Config) (ovf valid : Bool) (w : Nat), w < 2 ^ cfg.W →
    decode cfg (.p (ovf.toNat * 2 ^ (cfg.W + 1) + valid.toNat * 2 ^ cfg.W + w)) =
      .ok (match ovf, valid with
        | false, false => .idle
        | false, true => .push w
        | true, false => .ovf
        | true, true => .pushovf w)

/-- R80: every C word and every P word is an operation, and a well-formed one; only numbers that are no P word of the
configuration (assumption 12) are rejected. -/
def Obligations.EveryPortWordDecodes : Prop :=
  ∀ cfg : Config,
    (∀ c : Word, ∃ i, decode cfg (.c c) = .ok i ∧ wellFormed cfg i = true) ∧
    (∀ w : Nat, w < 2 ^ (cfg.W + 2) → ∃ i, decode cfg (.p w) = .ok i ∧ wellFormed cfg i = true) ∧
    (∀ w : Nat, 2 ^ (cfg.W + 2) ≤ w → decode cfg (.p w) = .error .wideWord)

/-- Decoding the encoding of a well-formed instruction gives it back, with every operand at every value. -/
def Obligations.EncodedInstructionsDecodeBack : Prop :=
  ∀ (cfg : Config) (i : Instr), wellFormed cfg i = true → decode cfg (encode cfg i) = .ok i

/-! ## Steps -/

/-- When the word pending first on a port decodes to `i`, the step is `exec i` on the state with that word taken off. (That
pending words stand in the state and that a step takes the first is the model's choice, assumption 3.) -/
def Obligations.StepRunsTheDecodedPortWord : Prop :=
  ∀ (s : State) (rest : List Input) (i : Instr),
    (∀ w, s.inputs = .src w :: rest → decode s.cfg (.p w) = .ok i → step s = exec i { s with inputs := rest }) ∧
    (∀ w, s.inputs = .host w :: rest → decode s.cfg (.c w) = .ok i → step s = exec i { s with inputs := rest })

/-- The pseudocode of R176: RUNSYNC copies the run request. (Where the two already agree RUNSYNC is not enabled; that its
turn then passes unused is the model's choice, assumption 4. Under the reading of STOPPED by which no internal step is
enabled there it changes nothing in STOPPED, assumption 11.) -/
def Obligations.RunsyncCarriesTheRunRequest : Prop :=
  ∀ (s : State) (rest : List Input), s.inputs = .sync .runsync :: rest →
    step s = .next
      { s with
        inputs := rest
        runP := if s.sch = .stopped ∧ s.cfg.stoppedReading = .frozen then s.runP else s.runReq }

/-- R145: DELIVER, when it is enabled, offers the head of the queue, which stays in the queue. -/
def Obligations.DeliverOffersTheQueueHead : Prop :=
  ∀ (s : State) (rest : List Input) (i : BufIdx) (l : List BufIdx), s.inputs = .sync .deliver :: rest →
    s.q = i :: l → s.sch = .idle → s.ackPend = false →
    ∃ t, step s = .next t ∧ t = { s with inputs := rest, slot := i, sch := .pending } ∧ cDrainReq t = true ∧
      cDrainIdx t = i

/-- R146: RETIRE, when it is enabled, removes the finished request, the oldest, from the queue. -/
def Obligations.RetireRemovesTheFinishedRequest : Prop :=
  ∀ (s : State) (rest : List Input) (i : BufIdx) (l : List BufIdx), s.inputs = .sync .retire :: rest →
    s.q = i :: l → s.ackPend = true → step s = .next { s with inputs := rest, q := l, ackPend := false }

/-- R177: FLAGSYNC copies some non-empty set `S` of the bits that are 1 in `flags_p` and 0 in `flags_c`, and every such
set is the one copied for the operand equal to it (the operand is the model's way to choose `S`, assumption 6). -/
def Obligations.FlagsyncCopiesMissingFlags : Prop :=
  ∀ (s : State) (rest : List Input) (choice : BitVec 5), s.inputs = .sync (.flagsync choice) :: rest →
    (s.flagsP &&& ~~~s.flagsC ≠ 0#5 →
      ∃ S : BitVec 5, S ≠ 0#5 ∧ S &&& ~~~(s.flagsP &&& ~~~s.flagsC) = 0#5 ∧
        step s = .next { s with inputs := rest, flagsC := s.flagsC ||| S }) ∧
    (choice ≠ 0#5 → choice &&& ~~~(s.flagsP &&& ~~~s.flagsC) = 0#5 →
      step s = .next { s with inputs := rest, flagsC := s.flagsC ||| choice })

/-- The pseudocode of R178: QUIESCE enters STOPPED under its five conditions. -/
def Obligations.QuiesceEntersStopped : Prop :=
  ∀ (s : State) (rest : List Input), s.inputs = .sync .quiesce :: rest →
    s.stopReq = true ∨ s.abortP = true → s.cap = false → s.q = [] → s.sch = .idle → s.flagsC = s.flagsP →
    step s = .next { s with inputs := rest, sch := .stopped }

/-- R92: an internal step whose condition does not hold is not taken; in the model its turn passes and nothing but the
list of pending steps changes (assumption 4; for RUNSYNC in STOPPED assumption 11). -/
def Obligations.DisabledInternalStepsChangeNothing : Prop :=
  ∀ (s : State) (rest : List Input) (k : SyncStep), s.inputs = .sync k :: rest →
    (match k with
      | .runsync => s.runP = s.runReq ∨ (s.sch = .stopped ∧ s.cfg.stoppedReading = .frozen)
      | .deliver => s.q = [] ∨ s.sch ≠ .idle ∨ s.ackPend = true
      | .retire => s.ackPend = false
      | .flagsync _ => s.flagsC = s.flagsP
      | .quiesce =>
        ¬((s.stopReq = true ∨ s.abortP = true) ∧ s.cap = false ∧ s.q = [] ∧ s.sch = .idle ∧ s.flagsC = s.flagsP)) →
    step s = .next { s with inputs := rest }

/-- R250: RESET sets every variable, whatever the state before; every buffer location counts as never written; the
outputs follow. -/
def Obligations.ResetSetsEveryVariable : Prop :=
  ∀ (s : State) (rest : List Input), s.inputs = .rst :: rest →
    ∃ t, step s = .next t ∧
      t.cfg = s.cfg ∧ t.runP = false ∧ t.abortP = false ∧ t.acc = 0 ∧ t.wcnt = 0 ∧ t.cursor = 0 ∧ t.active = .b0 ∧
      t.q = [] ∧ t.flagsP = 0#5 ∧ t.ovfCnt = 0 ∧ t.missCnt = 0 ∧ t.lostCnt = 0 ∧ (∀ i o, t.buf.get i o = none) ∧
      t.runReq = false ∧ t.stopReq = false ∧ t.sch = .idle ∧ t.slot = .b0 ∧ t.ackPend = false ∧ t.flagsC = 0#5 ∧
      t.proto = false ∧ t.rdata = 0#32 ∧
      cDrainReq t = false ∧ cDrainIdx t = .b0 ∧ cState t = 0#2 ∧ cStopped t = false ∧ cRdata t = 0#32 ∧
      cFault t = s.cfg.cfgerr

/-- With nothing pending, the crossing logic takes one of its enabled steps, if there is one (00_scope.md R7; that SYNC
acts at once in a quiet environment is the model's choice, assumption 5). -/
def Obligations.QuietEnvironmentRunsAnEnabledStep : Prop :=
  ∀ s : State, s.inputs = [] →
    ((∃ k, syncEnabled k s = true) →
      ∃ k, syncEnabled k s = true ∧ step s = .next { syncEffect k s with draws := s.draws + 1 }) ∧
    ((∀ k, syncEnabled k s = false) → step s = .next s)

/-! ## P port operations -/

/-- R11: `popcount` counts the bits that are 1. -/
def Obligations.PopcountCountsSetBits : Prop :=
  ∀ n v : Nat, popcount n v = ((List.range n).filter (fun i => v.testBit i)).length

/-- R101, R170: IDLE and NOP leave the state unchanged, in any state. -/
def Obligations.IdleAndNopChangeNothing : Prop :=
  ∀ s : State, exec .idle s = .next s ∧ exec .nop s = .next s

/-- R106: while the producer is not capturing, PUSH, OVF and PUSHOVF change no state at all. -/
def Obligations.ProducerPortIsIgnoredUnlessCapturing : Prop :=
  ∀ (s : State) (w : Nat), s.cap = false →
    exec (.push w) s = .next s ∧ exec .ovf s = .next s ∧ exec (.pushovf w) s = .next s

/-- R102, R104, R120, R122, R125: all of a PUSH. While the producer is not capturing, nothing. Inside a group it
accumulates. The word that completes the group stores the reduced count at (active, cursor) and nothing else in memory,
raises `RED` when the count exceeds `SMAX`, and advances the cursor; at the last offset it swaps instead: the roles flip,
`MISS` (and `ABT` under the ABORT policy) is raised when a request is unretired, and the request is appended, or dropped
with `LOST` when the queue is full. Everything not named is unchanged. -/
def Obligations.PushAccumulatesStoresAndSwaps : Prop :=
  ∀ (s : State) (w : Nat), s.cfg.ok = true →
    let n := s.acc + popcount s.cfg.W w
    let smax := 2 ^ s.cfg.B - 1
    let v := if n ≤ smax then n else match s.cfg.reduce with
      | .clamp => smax
      | .trunc => n % 2 ^ s.cfg.B
    let red : BitVec 5 := if n ≤ smax then 0#5 else 0b01000#5
    let miss : BitVec 5 := if s.q = [] then 0#5 else match s.cfg.missPolicy with
      | .goOn => 0b00010#5
      | .abort => 0b10010#5
    let lost : BitVec 5 := if s.q.length < s.cfg.Q then 0#5 else 0b00100#5
    let cmax := 2 ^ s.cfg.CNTW - 1
    ∃ m : Memory,
      exec (.push w) s = .next
        (if s.cap = false then s
        else if s.wcnt < s.cfg.G - 1 then { s with acc := n, wcnt := s.wcnt + 1 }
        else if s.cursor < s.cfg.L - 1 then
          { s with acc := 0, wcnt := 0, flagsP := s.flagsP ||| red, buf := m, cursor := s.cursor + 1 }
        else
          { s with
            acc := 0
            wcnt := 0
            buf := m
            cursor := 0
            active := s.active.other
            q := if s.q.length < s.cfg.Q then s.q ++ [s.active] else s.q
            flagsP := s.flagsP ||| red ||| miss ||| lost
            missCnt := if s.q = [] then s.missCnt else if s.missCnt < cmax then s.missCnt + 1 else cmax
            lostCnt :=
              if s.q.length < s.cfg.Q then s.lostCnt else if s.lostCnt < cmax then s.lostCnt + 1 else cmax }) ∧
      m.get s.active s.cursor = some v ∧
      ∀ i o, ¬(i = s.active ∧ o = s.cursor) → m.get i o = s.buf.get i o

/-- R107: OVF while capturing sets `OVF` and counts, saturating; nothing else changes. -/
def Obligations.OvfCountsAReport : Prop :=
  ∀ s : State, s.cfg.ok = true →
    exec .ovf s = .next
      (if s.cap then
        { s with
          flagsP := s.flagsP ||| 0b00001#5
          ovfCnt := if s.ovfCnt < 2 ^ s.cfg.CNTW - 1 then s.ovfCnt + 1 else 2 ^ s.cfg.CNTW - 1 }
      else s)

/-- R108: PUSHOVF has the effect of OVF and the effect of PUSH, both on the state before: the flags of both, the count of
OVF, and everything else as PUSH leaves it. -/
def Obligations.PushovfIsBothOperations : Prop :=
  ∀ (s : State) (w : Nat), s.cfg.ok = true →
    ∃ a b, exec .ovf s = .next a ∧ exec (.push w) s = .next b ∧
      exec (.pushovf w) s = .next { b with flagsP := a.flagsP ||| b.flagsP, ovfCnt := a.ovfCnt }

/-- 00_scope.md R10: under a failing configuration no obeyed P operation has a defined result; the model stops there by
name (assumption 9), in states no run reaches. -/
def Obligations.FailingConfigurationRefusesObeyedWords : Prop :=
  ∀ (s : State) (w : Nat), s.cap = true → s.cfg.ok = false →
    exec (.push w) s = .refused .configurationError ∧ exec .ovf s = .refused .configurationError ∧
    exec (.pushovf w) s = .refused .configurationError

/-- R103: the `G` words of a group, from the start of a group, store the reduced total count of their set bits at the
place the cursor named, and nothing else in memory. -/
def Obligations.GroupStoresItsReducedBitCount : Prop :=
  ∀ (s : State) (ws : List Nat) (rest : List Input), s.cap = true → s.cfg.ok = true → s.wcnt = 0 → s.acc = 0 →
    ws.length = s.cfg.G → (∀ w ∈ ws, w < 2 ^ s.cfg.W) → s.inputs = groupLines s.cfg ws ++ rest →
    ∃ t, run s.cfg.G s = .next t ∧ t.wcnt = 0 ∧ t.acc = 0 ∧ t.inputs = rest ∧
      t.buf.get s.active s.cursor = some (reduceValue s.cfg (ws.map (popcount s.cfg.W)).sum) ∧
      ∀ i o, ¬(i = s.active ∧ o = s.cursor) → t.buf.get i o = s.buf.get i o

/-- R90, R103: two groups with the same number of set bits have the same effect, whatever the order of their words and of
the bits within a word. -/
def Obligations.GroupsOfEqualBitCountActAlike : Prop :=
  ∀ (s : State) (ws ws' : List Nat) (rest : List Input), s.cap = true → s.cfg.ok = true → s.wcnt = 0 → s.acc = 0 →
    ws.length = s.cfg.G → ws'.length = s.cfg.G → (∀ w ∈ ws, w < 2 ^ s.cfg.W) → (∀ w ∈ ws', w < 2 ^ s.cfg.W) →
    (ws.map (popcount s.cfg.W)).sum = (ws'.map (popcount s.cfg.W)).sum →
    ∃ t, run s.cfg.G { s with inputs := groupLines s.cfg ws ++ rest } = .next t ∧
      run s.cfg.G { s with inputs := groupLines s.cfg ws' ++ rest } = .next t

/-- R77: after exactly `L` groups from an empty active buffer exactly one swap has occurred: the cursor is 0, the roles have
flipped, the one request names the buffer that was active, and that buffer holds the `L` samples in order. -/
def Obligations.FillStoresSamplesInOrderAndSwapsOnce : Prop :=
  ∀ (s : State) (gs : List (List Nat)) (rest : List Input), s.cap = true → s.cfg.ok = true → s.wcnt = 0 → s.acc = 0 →
    s.cursor = 0 → s.q = [] → gs.length = s.cfg.L →
    (∀ ws ∈ gs, ws.length = s.cfg.G ∧ ∀ w ∈ ws, w < 2 ^ s.cfg.W) → s.inputs = gs.flatMap (groupLines s.cfg) ++ rest →
    ∃ t, run (s.cfg.L * s.cfg.G) s = .next t ∧ t.inputs = rest ∧ t.cursor = 0 ∧ t.active = s.active.other ∧
      t.q = [s.active] ∧ t.missCnt = s.missCnt ∧ t.lostCnt = s.lostCnt ∧
      (∀ k, ∀ ws, gs[k]? = some ws →
        t.buf.get s.active k = some (reduceValue s.cfg (ws.map (popcount s.cfg.W)).sum)) ∧
      ∀ o, t.buf.get s.active.other o = s.buf.get s.active.other o

/-! ## C port operations -/

/-- R143: TAKE accepts the pending request, and is rejected with PROTO in every other state. -/
def Obligations.TakeAcceptsThePendingRequest : Prop :=
  ∀ s : State, exec .take s = .next (if s.sch = .pending then { s with sch := .draining } else { s with proto := true })

/-- R147: DONE finishes the drain, and is rejected with PROTO in every other state. -/
def Obligations.DoneFinishesTheDrain : Prop :=
  ∀ s : State, exec .done s = .next
    (if s.sch = .draining then { s with sch := .idle, ackPend := true } else { s with proto := true })

/-- R66, R144: READ returns the stored sample, zero-extended, except past the end of the buffer, in the buffer the
producer owns while it captures, and where nothing has been written; there it returns some value of `B` bits, about which
nothing is said. It changes `rdata` (and the model's own draw counter, not state of the spec) and nothing else. -/
def Obligations.ReadReturnsTheStoredSample : Prop :=
  ∀ (s : State) (i : BufIdx) (off : BitVec 24),
    (∀ v, off.toNat < s.cfg.L → ¬(s.cap = true ∧ i = s.active) → s.buf.get i off.toNat = some v →
      exec (.read i off) s = .next { s with rdata := BitVec.ofNat 32 v }) ∧
    (s.cfg.L ≤ off.toNat ∨ (s.cap = true ∧ i = s.active) ∨ s.buf.get i off.toNat = none →
      ∃ (d : Word) (n : Nat), d.toNat < 2 ^ s.cfg.B ∧
        exec (.read i off) s = .next { s with rdata := d, draws := n })

/-- R171: START sets the run request in IDLE, once, under a configuration that is OK; otherwise PROTO. -/
def Obligations.StartRequestsCapture : Prop :=
  ∀ s : State, exec .start s = .next
    (if s.sch = .idle ∧ s.runReq = false ∧ s.stopReq = false ∧ s.cfg.cfgerr = false then { s with runReq := true }
    else { s with proto := true })

/-- R172: STOP withdraws the run request and is remembered; it is accepted in every state. (In STOPPED after an abort its
pseudocode and its prose disagree; there it does what the model's reading of STOPPED says, the pseudocode or nothing,
assumption 11.) -/
def Obligations.StopWithdrawsTheRunRequest : Prop :=
  ∀ s : State, exec .stop s = .next
    (if s.sch = .stopped ∧ s.cfg.stoppedReading = .frozen then s else { s with runReq := false, stopReq := true })

/-- R173: the reserved operation sets PROTO and changes nothing else. -/
def Obligations.ReservedCommandOnlyRaisesProto : Prop :=
  ∀ s : State, exec .rsvd7 s = .next { s with proto := true }

/-- R174: the registers held in the consumer domain read exactly, in every state, and only `rdata` changes. -/
def Obligations.StatusAndFlagsReadExactly : Prop :=
  ∀ s : State,
    exec (.rdstat .status) s = .next { s with
      rdata := BitVec.ofNat 32
        ((match s.sch with
          | .idle => 0
          | .pending => 1
          | .draining => 2
          | .stopped => 3) +
        (match s.slot with
          | .b0 => 0
          | .b1 => 4) + (if s.runReq then 8 else 0) + (if s.stopReq then 16 else 0)) } ∧
    exec (.rdstat .flags) s = .next { s with
      rdata := BitVec.ofNat 32
        (s.flagsC.toNat + (if s.cfg.cfgerr then 32 else 0) + (if s.proto then 64 else 0)) } ∧
    exec (.rdstat .sr6) s = .next { s with rdata := 0#32 } ∧
    exec (.rdstat .sr7) s = .next { s with rdata := 0#32 }

/-- R175: the registers held in the producer domain read exactly while the producer is not capturing, and otherwise
return some 32-bit value, about which nothing is said; only `rdata` (and then the model's own draw counter) changes. -/
def Obligations.ProducerRegistersReadExactlyWhenHalted : Prop :=
  ∀ s : State,
    (s.cap = false → s.cursor < 2 ^ 24 →
      exec (.rdstat .pos) s = .next { s with
        rdata := BitVec.ofNat 32 (s.cursor + match s.active with
          | .b0 => 0
          | .b1 => 2 ^ 31) } ∧
      exec (.rdstat .ovfCnt) s = .next { s with rdata := BitVec.ofNat 32 s.ovfCnt } ∧
      exec (.rdstat .missCnt) s = .next { s with rdata := BitVec.ofNat 32 s.missCnt } ∧
      exec (.rdstat .lostCnt) s = .next { s with rdata := BitVec.ofNat 32 s.lostCnt }) ∧
    (s.cap = true → ∀ r, r = .pos ∨ r = .ovfCnt ∨ r = .missCnt ∨ r = .lostCnt →
      ∃ (d : Word) (n : Nat), exec (.rdstat r) s = .next { s with rdata := d, draws := n })

/-- R228: START, TAKE and DONE out of place and RSVD7 set PROTO and change nothing else; NOP, STOP, READ and RDSTAT never
raise it. -/
def Obligations.RejectedCommandsOnlyRaiseProto : Prop :=
  ∀ s : State,
    (s.sch ≠ .idle ∨ s.runReq = true ∨ s.stopReq = true ∨ s.cfg.cfgerr = true →
      exec .start s = .next { s with proto := true }) ∧
    (s.sch ≠ .pending → exec .take s = .next { s with proto := true }) ∧
    (s.sch ≠ .draining → exec .done s = .next { s with proto := true }) ∧
    exec .rsvd7 s = .next { s with proto := true } ∧
    (∀ i, i = .nop ∨ i = .stop ∨ (∃ b o, i = .read b o) ∨ (∃ r, i = .rdstat r) →
      ∃ t, exec i s = .next t ∧ t.proto = s.proto)

/-- R9: `ConfigOK`, term by term. -/
def Obligations.ConfigOkIsItsSevenTerms : Prop :=
  ∀ cfg : Config, cfg.ok = true ↔
    1 ≤ cfg.W ∧ cfg.W ≤ cfg.OSR ∧ cfg.OSR % cfg.W = 0 ∧ (1 ≤ cfg.L ∧ cfg.L ≤ 2 ^ 24) ∧ (1 ≤ cfg.B ∧ cfg.B ≤ 32) ∧
      2 ≤ cfg.Q ∧ (1 ≤ cfg.CNTW ∧ cfg.CNTW ≤ 32)

/-- R225: `CFG` reads 1 exactly under a failing configuration, which rejects every START, and no step changes the
configuration. -/
def Obligations.ConfigurationErrorRejectsEveryStart : Prop :=
  ∀ s : State,
    (∃ t, exec (.rdstat .flags) s = .next t ∧ (t.rdata.getLsbD 5 = true ↔ s.cfg.ok = false)) ∧
    (s.cfg.ok = false → exec .start s = .next { s with proto := true }) ∧
    ∀ t, step s = .next t → t.cfg = s.cfg

/-- R42: the outputs as functions of state. -/
def Obligations.OutputsFollowTheState : Prop :=
  ∀ s : State,
    (cDrainReq s = true ↔ s.sch = .pending) ∧ cDrainIdx s = s.slot ∧
    cState s = (match s.sch with
      | .idle => 0#2
      | .pending => 1#2
      | .draining => 2#2
      | .stopped => 3#2) ∧
    (cStopped s = true ↔ s.sch = .stopped) ∧
    (cFault s = true ↔
      s.flagsC &&& 0b10111#5 ≠ 0#5 ∨ s.cfg.cfgerr = true ∨ s.proto = true) ∧
    cRdata s = s.rdata

/-! ## Whole-machine rules -/

/-- The invariants hold after RESET, in every configuration and whatever the agents will do. -/
def Obligations.ResetStateMeetsTheInvariants : Prop :=
  ∀ (cfg : Config) (l : List Input) (d : Nat),
    let s := { State.initial cfg with inputs := l, draws := d }
    StateInv s ∧ FlagsAgree s ∧ QueueAlternates s ∧ NoMissOneRequest s

/-- R22 to R37, R124: every step of every agent keeps the invariants of the state. -/
def Obligations.EveryStepKeepsTheInvariants : Prop :=
  ∀ s t : State, StateInv s → step s = .next t → StateInv t

/-- R221 to R229: every step keeps the agreement of flags and counters. -/
def Obligations.EveryStepKeepsFlagsAndCountersAgreeing : Prop :=
  ∀ s t : State, StateInv s → FlagsAgree s → step s = .next t → FlagsAgree t

/-- R28: until a request is dropped, the queued requests alternate and the newest names the inactive buffer. -/
def Obligations.EveryStepKeepsRequestsAlternating : Prop :=
  ∀ s t : State, QueueAlternates s → step s = .next t → QueueAlternates t

/-- R73: until a DeadlineMiss is raised, at most one request is unretired and it names the inactive buffer. -/
def Obligations.EveryStepKeepsOneRequestUntilMiss : Prop :=
  ∀ s t : State, NoMissOneRequest s → step s = .next t → NoMissOneRequest t

/-- From R73: as long as no DeadlineMiss has been raised, the buffer offered or being drained is not the active one, every
READ of it returns the sample stored there, and no step but RESET changes a sample of it. -/
def Obligations.ReadsOfTheDrainAreExactUntilMiss : Prop :=
  ∀ (s : State) (off : BitVec 24), StateInv s → NoMissOneRequest s → hasFlag s.flagsP .miss = false →
    s.sch = .pending ∨ s.sch = .draining → off.toNat < s.cfg.L →
    s.slot ≠ s.active ∧
    (∃ v, s.buf.get s.slot off.toNat = some v ∧
      exec (.read s.slot off) s = .next { s with rdata := BitVec.ofNat 32 v }) ∧
    ∀ t, step s = .next t → notReset s → ∀ o, t.buf.get s.slot o = s.buf.get s.slot o

/-- R27: no HOST step and no SYNC step writes `acc`, `wcnt`, `cursor`, `active`, `flags_p` (with `abort_p`) or one of the
three counters, nor the buffer memory. (`run_p` and `q`, also of the producer domain, SYNC does write.) -/
def Obligations.OnlySrcWritesAccWcntCursorActiveFlagsAndCounters : Prop :=
  ∀ s t : State, step s = .next t → notReset s → (∀ w, s.inputs.head? ≠ some (.src w)) → ProducerSame s t

/-- R236: a word on the P port never writes the consumer-domain variables. -/
def Obligations.PPortNeverWritesConsumerState : Prop :=
  ∀ (s t : State) (w : Nat), s.inputs.head? = some (.src w) → step s = .next t → ConsumerSame s t

/-- R67: a step other than RESET changes no buffer location but the one at (active, cursor). -/
def Obligations.StoresGoOnlyToTheCursor : Prop :=
  ∀ (s t : State) (i : BufIdx) (o : Nat), step s = .next t → notReset s → ¬(i = s.active ∧ o = s.cursor) →
    t.buf.get i o = s.buf.get i o

/-- R221, R235: flags are cleared and counters fall only by RESET. -/
def Obligations.FlagsAreClearedOnlyByReset : Prop :=
  ∀ s t : State, StateInv s → step s = .next t → notReset s →
    flagsLe s.flagsP t.flagsP ∧ flagsLe s.flagsC t.flagsC ∧ (s.proto = true → t.proto = true) ∧
    s.ovfCnt ≤ t.ovfCnt ∧ s.missCnt ≤ t.missCnt ∧ s.lostCnt ≤ t.lostCnt

/-- R140: the scheduler state moves only as the table says; TAKE and DONE in a state where they are not listed are
rejected. -/
def Obligations.SchedulerMovesOnlyAsListed : Prop :=
  (∀ s : State,
    (s.sch ≠ .pending → exec .take s = .next { s with proto := true }) ∧
    (s.sch ≠ .draining → exec .done s = .next { s with proto := true })) ∧
  ∀ s t : State, step s = .next t → t.sch ≠ s.sch →
    (s.sch = .idle ∧ t.sch = .pending ∧ s.q ≠ [] ∧ s.ackPend = false ∧
      (s.inputs = [] ∨ s.inputs.head? = some (.sync .deliver))) ∨
    (s.sch = .pending ∧ t.sch = .draining ∧ ∃ w, s.inputs.head? = some (.host w) ∧ decode s.cfg (.c w) = .ok .take) ∨
    (s.sch = .draining ∧ t.sch = .idle ∧ ∃ w, s.inputs.head? = some (.host w) ∧ decode s.cfg (.c w) = .ok .done) ∨
    (s.sch = .idle ∧ t.sch = .stopped ∧ (s.stopReq = true ∨ s.abortP = true) ∧ s.cap = false ∧ s.q = [] ∧
      s.flagsC = s.flagsP ∧ (s.inputs = [] ∨ s.inputs.head? = some (.sync .quiesce))) ∨
    (s.inputs.head? = some .rst ∧ t.sch = .idle)

/-- R142: the queue is first-in first-out: a step appends the request of a swap, or removes the oldest on an acknowledge,
or leaves the queue alone; RESET aside. -/
def Obligations.QueueIsFirstInFirstOut : Prop :=
  ∀ s t : State, step s = .next t → notReset s →
    t.q = s.q ∨
    (t.q = s.q ++ [s.active] ∧ t.active = s.active.other ∧ t.cursor = 0 ∧ ∃ w, s.inputs.head? = some (.src w)) ∨
    (s.ackPend = true ∧ t.ackPend = false ∧ t.q = s.q.tail)

/-- R142, R149: a consumer that repeats wait, TAKE, DONE sees every queued request, each once, in the order of the
queue, and leaves the queue empty. -/
def Obligations.RequestsAreServedOnceInQueueOrder : Prop :=
  ∀ (s : State) (rest : List Input), s.sch = .idle → s.ackPend = false →
    s.inputs = (s.q.flatMap fun _ =>
      [.sync .deliver, line s.cfg .take, line s.cfg .done, .sync .retire]) ++ rest →
    (∀ k i, s.q[k]? = some i →
      ∃ t, run (4 * k + 1) s = .next t ∧ t.sch = .pending ∧ t.slot = i ∧ t.q = s.q.drop k) ∧
    ∃ t, run (4 * s.q.length) s = .next t ∧ t.sch = .idle ∧ t.ackPend = false ∧ t.q = [] ∧ t.inputs = rest

/-- R181: no step but RESET leaves STOPPED; capture does not resume; `acc`, `wcnt`, `cursor`, `active`, `flags_p`, the
three counters, the buffer memory, the configuration, the queue (empty) and `flags_c` stay as they are. (`rdata` and
`proto` can change, and after an abort, under one reading, `run_req`, `stop_req` and `run_p`, assumption 11.) -/
def Obligations.StoppedIsTerminal : Prop :=
  ∀ s t : State, StateInv s → s.sch = .stopped → step s = .next t → notReset s →
    t.sch = .stopped ∧ t.cap = false ∧ ProducerSame s t ∧ t.q = [] ∧ t.flagsC = s.flagsC

/-- From R264: in STOPPED no internal step is enabled and a step but RESET changes only `rdata` and `proto`. After an abort
this holds as it stands under the reading `frozen`; under the reading `byPseudocode` RUNSYNC may still be enabled and
`run_req`, `stop_req` and `run_p` may change, until a STOP has been seen by the producer. (That there are two readings is
the model's choice, assumption 11; `draws` and `inputs` are the model's own.) -/
def Obligations.StoppedRunIsFinal : Prop :=
  ∀ s t : State, StateInv s → s.sch = .stopped → step s = .next t → notReset s →
    t = { s with
      rdata := t.rdata, proto := t.proto, runReq := t.runReq, stopReq := t.stopReq, runP := t.runP, draws := t.draws,
      inputs := t.inputs } ∧
    (∀ k, syncEnabled k s = true → k = .runsync ∧ s.abortP = true) ∧
    (s.cfg.stoppedReading = .frozen ∨ s.abortP = false ∨ (s.stopReq = true ∧ s.runP = false) →
      (∀ k, syncEnabled k s = false) ∧ t.runReq = s.runReq ∧ t.stopReq = s.stopReq ∧ t.runP = s.runP)

/-- R180: in STOPPED the samples of the unfinished fill, those below the cursor of the active buffer, read exactly. -/
def Obligations.ResidualSamplesReadExactly : Prop :=
  ∀ (s : State) (off : BitVec 24), StateInv s → s.sch = .stopped → off.toNat < s.cursor →
    ∃ v, s.buf.get s.active off.toNat = some v ∧
      exec (.read s.active off) s = .next { s with rdata := BitVec.ofNat 32 v }

/-- R229: once `ABT` is set, `cap` is false until RESET, and `acc`, `wcnt`, `cursor`, `active`, `flags_p`, the three
counters, the buffer memory and the configuration stay as they are. (`q` and `run_p` are still written by RETIRE and
RUNSYNC.) -/
def Obligations.AbortEndsCaptureUntilReset : Prop :=
  ∀ s t : State, s.abortP = true → step s = .next t → notReset s →
    t.abortP = true ∧ t.cap = false ∧ ProducerSame s t

/-- R261: START is accepted at most once between two RESETs. -/
def Obligations.OneCapturePerReset : Prop :=
  ∀ s t : State, s.runReq = true ∨ s.stopReq = true →
    exec .start s = .next { s with proto := true } ∧
    (step s = .next t → notReset s → t.runReq = true ∨ t.stopReq = true)

/-- R7: every enabled internal step is eventually taken. In a quiet environment, within eight steps none is enabled any
more, and then no request is left that could be offered (that each quiet step takes one is the model's choice,
assumption 5). In every endless run in which SYNC is weakly fair, however SRC and HOST act, as long as RESET stays away: an
acknowledge is retired; the oldest request is offered; a flag becomes visible; a START reaches the producer unless a STOP
or an abort overtakes it; a STOP ends capture; and STOPPED is entered when its conditions hold (R178), the flags catching
up. -/
def Obligations.EnabledInternalStepsAreEventuallyTaken : Prop :=
  (∀ s : State, StateInv s → s.inputs = [] →
    ∃ n t, n ≤ 8 ∧ run n s = .next t ∧ (∀ k, syncEnabled k t = false) ∧ (t.q ≠ [] → t.sch ≠ .idle)) ∧
  ∀ (σ : Nat → State) (α : Nat → Input) (n : Nat), EndlessRun σ α → WeaklyFair σ α → StateInv (σ n) →
    (∀ m, n ≤ m → α m ≠ .rst) →
    ((σ n).ackPend = true → ∃ m, n ≤ m ∧ (σ m).ackPend = false) ∧
    (∀ i l, (σ n).q = i :: l → (σ n).sch = .idle → (σ n).ackPend = false →
      ∃ m, n ≤ m ∧ (σ m).sch = .pending ∧ (σ m).slot = i) ∧
    (∀ f, hasFlag (σ n).flagsP f = true → ∃ m, n ≤ m ∧ hasFlag (σ m).flagsC f = true) ∧
    ((σ n).runReq = true → ∃ m, n ≤ m ∧ ((σ m).runP = true ∨ (σ m).stopReq = true ∨ (σ m).abortP = true)) ∧
    ((σ n).stopReq = true → ∃ m, n ≤ m ∧ (σ m).cap = false) ∧
    ((σ n).stopReq = true ∨ (σ n).abortP = true → (σ n).cap = false → (σ n).q = [] → (σ n).sch = .idle →
      ∃ m, n ≤ m ∧ (σ m).sch = .stopped)

/-- R80, R260: from a state that meets the invariants, no step is refused while SRC presents P words. -/
def Obligations.NoStepIsRefused : Prop :=
  ∀ s : State, StateInv s → (∀ w, s.inputs.head? = some (.src w) → w < 2 ^ (s.cfg.W + 2)) → ∃ t, step s = .next t

/-- Every reachable state meets the invariants, in every configuration. -/
def Obligations.ReachableStatesMeetTheInvariants : Prop :=
  ∀ s : State, Reachable s → StateInv s ∧ FlagsAgree s ∧ QueueAlternates s ∧ NoMissOneRequest s

/-- Two memories in canonical form that read alike everywhere are the same data. -/
def Obligations.CanonicalMemoriesAreTheirContents : Prop :=
  ∀ m m' : Memory, m.wf → m'.wf → (∀ i o, m.get i o = m'.get i o) → m = m'

/-! ## The host's WavWriter -/

/-- R206, R207, R204: a file opened, written piece by piece and closed without failure is the header with ChunkSize
`36 + dataSize` and SubChunk2Size `dataSize`, then the bytes in order. (The model's choices: for data of 4 GiB and more the
size fields keep their low bytes, assumption 14; no pad byte follows data of odd length, assumption 19; BlockAlign rounds
down, assumption 20.) -/
def Obligations.ClosedWavFileIsHeaderThenData : Prop :=
  ∀ (p : Wav.Params) (pieces : List (List Wav.Byte)),
    let data := pieces.flatten
    (do
      let w ← Wav.openFile false p
      let w ← pieces.foldlM (fun w bytes => Wav.writeBytes false bytes w) w
      Wav.closeFile false w) =
      .ok (Wav.header p (36 + data.length) data.length ++ data)

/-- R208: the worked example of 80 bytes at 8000 Hz, 8 bits, mono, byte by byte as 95_test_vectors.md 1.6 lists it. (The
ASCII codes of the four-character fields are PRESUMED, assumption 14.) -/
def Obligations.WavHeaderOfEightyBytes : Prop :=
  Wav.header { sampleRate := 8000, bitsPerSample := 8, channels := 1 } 116 80 =
    [0x52, 0x49, 0x46, 0x46, 0x74, 0x00, 0x00, 0x00, 0x57, 0x41, 0x56, 0x45, 0x66, 0x6D, 0x74, 0x20,
     0x10, 0x00, 0x00, 0x00, 0x01, 0x00, 0x01, 0x00, 0x40, 0x1F, 0x00, 0x00, 0x40, 0x1F, 0x00, 0x00,
     0x01, 0x00, 0x08, 0x00, 0x64, 0x61, 0x74, 0x61, 0x50, 0x00, 0x00, 0x00]
end

