-- ==== Sys2Proof/Laws/Decode.lean ====
section
/-! SUPPORT. The fields of a C word written out, bit by bit, from `op`, the reserved bits, `idx` and `off` (30_encoding.md
R83), and of a P word from its control bits and raw word (R81). -/

namespace Sys2Proof

/-- The bits of a C word. -/
theorem cWord_bit (op : BitVec 3) (r : BitVec 4) (i : BitVec 1) (o : BitVec 24) (j : Nat) :
    BitVec.getLsbD (w := 32) (op ++ r ++ i ++ o) j =
      if j < 24 then o.getLsbD j else if j < 25 then i.getLsbD (j - 24) else if j < 29 then r.getLsbD (j - 25)
      else op.getLsbD (j - 29) := by
  have h : BitVec.getLsbD (w := 32) (op ++ r ++ i ++ o) j =
      BitVec.getLsbD (w := 3 + 4 + 1 + 24) (op ++ r ++ i ++ o) j := rfl
  rw [h]
  simp only [BitVec.getLsbD_append]
  by_cases h1 : j < 24
  · rw [if_pos h1, if_pos h1]
  · by_cases h2 : j < 25
    · rw [if_neg h1, if_neg h1, if_pos (by omega), if_pos h2]
    · by_cases h3 : j < 29
      · rw [if_neg h1, if_neg h1, if_neg (by omega), if_neg h2, if_pos (by omega), if_pos h3,
          show j - 24 - 1 = j - 25 by omega]
      · rw [if_neg h1, if_neg h1, if_neg (by omega), if_neg h2, if_neg (by omega), if_neg h3,
          show j - 24 - 1 - 4 = j - 29 by omega]

theorem cOp_word (op : BitVec 3) (r : BitVec 4) (i : BitVec 1) (o : BitVec 24) : cOp (op ++ r ++ i ++ o) = op := by
  apply BitVec.eq_of_getLsbD_eq
  intro j hj
  rw [cOp, BitVec.getLsbD_extractLsb', cWord_bit, if_neg (by omega), if_neg (by omega), if_neg (by omega)]
  simp [hj]

theorem cIdx_word (op : BitVec 3) (r : BitVec 4) (i : BitVec 1) (o : BitVec 24) :
    cIdx (op ++ r ++ i ++ o) = if i = 0#1 then .b0 else .b1 := by
  have key : ∀ i : BitVec 1, BufIdx.ofBit (i.getLsbD 0) = if i = 0#1 then BufIdx.b0 else .b1 := by decide
  rw [cIdx, cWord_bit, if_neg (by omega), if_pos (by omega)]
  exact key i

theorem cOff_word (op : BitVec 3) (r : BitVec 4) (i : BitVec 1) (o : BitVec 24) : cOff (op ++ r ++ i ++ o) = o := by
  apply BitVec.eq_of_getLsbD_eq
  intro j hj
  rw [cOff, BitVec.getLsbD_extractLsb', cWord_bit, if_pos (by omega)]
  simp [hj]

/-- `sel` is the low three bits of `off` (R85). -/
theorem cSel_word (op : BitVec 3) (r : BitVec 4) (i : BitVec 1) (o : BitVec 24) :
    cSel (op ++ r ++ i ++ o) = StatReg.numbered (o.toNat % 8) := by
  have e : BitVec.extractLsb' 0 3 ((op ++ r ++ i ++ o : BitVec (3 + 4 + 1 + 24)) : Word) = o.extractLsb' 0 3 := by
    apply BitVec.eq_of_getLsbD_eq
    intro j hj
    rw [BitVec.getLsbD_extractLsb', cWord_bit, if_pos (by omega), BitVec.getLsbD_extractLsb']
  rw [cSel, e]
  simp

section pWord

variable (cfg : Config) (ovf valid : Bool) {w : Nat} (hw : w < 2 ^ cfg.W)
include hw

theorem packP_lt : packP cfg ovf valid w < 2 ^ (cfg.W + 2) := by
  have e2 : 2 ^ (cfg.W + 2) = 4 * 2 ^ cfg.W := by rw [pow_add]; ring
  have e1 : 2 ^ (cfg.W + 1) = 2 * 2 ^ cfg.W := by rw [pow_add]; ring
  rw [packP, e1, e2]
  cases ovf <;> cases valid <;> simp <;> omega

theorem packP_div : packP cfg ovf valid w / 2 ^ cfg.W = 2 * ovf.toNat + valid.toNat := by
  rw [packP, show ovf.toNat * 2 ^ (cfg.W + 1) + valid.toNat * 2 ^ cfg.W + w =
      w + 2 ^ cfg.W * (2 * ovf.toNat + valid.toNat) by rw [pow_succ]; ring,
    Nat.add_mul_div_left _ _ (Nat.two_pow_pos _), Nat.div_eq_of_lt hw, Nat.zero_add]

theorem rawWord_packP : rawWord cfg (packP cfg ovf valid w) = w := by
  rw [rawWord, packP, show ovf.toNat * 2 ^ (cfg.W + 1) + valid.toNat * 2 ^ cfg.W + w =
      w + 2 ^ cfg.W * (2 * ovf.toNat + valid.toNat) by rw [pow_succ]; ring,
    Nat.add_mul_mod_self_left, Nat.mod_eq_of_lt hw]

theorem rawValid_packP : rawValid cfg (packP cfg ovf valid w) = valid := by
  simp only [rawValid, Nat.testBit, Nat.shiftRight_eq_div_pow, packP_div cfg ovf valid hw]
  cases ovf <;> cases valid <;> decide

theorem rawOvf_packP : rawOvf cfg (packP cfg ovf valid w) = ovf := by
  have h : packP cfg ovf valid w / 2 ^ (cfg.W + 1) = ovf.toNat := by
    rw [pow_succ, ← Nat.div_div_eq_div_mul, packP_div cfg ovf valid hw]
    cases ovf <;> cases valid <;> rfl
  simp only [rawOvf, Nat.testBit, Nat.shiftRight_eq_div_pow, h]
  cases ovf <;> decide

end pWord

end Sys2Proof
end

