-- ==== Sys2Proof/Laws/State.lean ====
section
/-! SUPPORT. The fields of a state after each named update of it: what the update wrote, and every other field as it
was. -/

namespace Sys2Proof.Machine

variable (s : State)

@[simp] theorem setFlag_cfg (f : PFlag) : (setFlag f s).cfg = s.cfg := rfl
@[simp] theorem setFlag_runP (f : PFlag) : (setFlag f s).runP = s.runP := rfl
@[simp] theorem setFlag_acc (f : PFlag) : (setFlag f s).acc = s.acc := rfl
@[simp] theorem setFlag_wcnt (f : PFlag) : (setFlag f s).wcnt = s.wcnt := rfl
@[simp] theorem setFlag_cursor (f : PFlag) : (setFlag f s).cursor = s.cursor := rfl
@[simp] theorem setFlag_active (f : PFlag) : (setFlag f s).active = s.active := rfl
@[simp] theorem setFlag_q (f : PFlag) : (setFlag f s).q = s.q := rfl
@[simp] theorem setFlag_flagsP (f : PFlag) : (setFlag f s).flagsP = s.flagsP ||| f.mask := rfl
@[simp] theorem setFlag_ovfCnt (f : PFlag) : (setFlag f s).ovfCnt = s.ovfCnt := rfl
@[simp] theorem setFlag_missCnt (f : PFlag) : (setFlag f s).missCnt = s.missCnt := rfl
@[simp] theorem setFlag_lostCnt (f : PFlag) : (setFlag f s).lostCnt = s.lostCnt := rfl
@[simp] theorem setFlag_buf (f : PFlag) : (setFlag f s).buf = s.buf := rfl
@[simp] theorem setFlag_runReq (f : PFlag) : (setFlag f s).runReq = s.runReq := rfl
@[simp] theorem setFlag_stopReq (f : PFlag) : (setFlag f s).stopReq = s.stopReq := rfl
@[simp] theorem setFlag_sch (f : PFlag) : (setFlag f s).sch = s.sch := rfl
@[simp] theorem setFlag_slot (f : PFlag) : (setFlag f s).slot = s.slot := rfl
@[simp] theorem setFlag_ackPend (f : PFlag) : (setFlag f s).ackPend = s.ackPend := rfl
@[simp] theorem setFlag_flagsC (f : PFlag) : (setFlag f s).flagsC = s.flagsC := rfl
@[simp] theorem setFlag_proto (f : PFlag) : (setFlag f s).proto = s.proto := rfl
@[simp] theorem setFlag_rdata (f : PFlag) : (setFlag f s).rdata = s.rdata := rfl
@[simp] theorem setFlag_draws (f : PFlag) : (setFlag f s).draws = s.draws := rfl
@[simp] theorem setFlag_inputs (f : PFlag) : (setFlag f s).inputs = s.inputs := rfl

@[simp] theorem raise_cfg (f : PFlag) : (raise f s).cfg = s.cfg := by cases f <;> rfl
@[simp] theorem raise_runP (f : PFlag) : (raise f s).runP = s.runP := by cases f <;> rfl
@[simp] theorem raise_acc (f : PFlag) : (raise f s).acc = s.acc := by cases f <;> rfl
@[simp] theorem raise_wcnt (f : PFlag) : (raise f s).wcnt = s.wcnt := by cases f <;> rfl
@[simp] theorem raise_cursor (f : PFlag) : (raise f s).cursor = s.cursor := by cases f <;> rfl
@[simp] theorem raise_active (f : PFlag) : (raise f s).active = s.active := by cases f <;> rfl
@[simp] theorem raise_q (f : PFlag) : (raise f s).q = s.q := by cases f <;> rfl
@[simp] theorem raise_flagsP (f : PFlag) : (raise f s).flagsP = s.flagsP ||| f.mask := by cases f <;> rfl
@[simp] theorem raise_buf (f : PFlag) : (raise f s).buf = s.buf := by cases f <;> rfl
@[simp] theorem raise_runReq (f : PFlag) : (raise f s).runReq = s.runReq := by cases f <;> rfl
@[simp] theorem raise_stopReq (f : PFlag) : (raise f s).stopReq = s.stopReq := by cases f <;> rfl
@[simp] theorem raise_sch (f : PFlag) : (raise f s).sch = s.sch := by cases f <;> rfl
@[simp] theorem raise_slot (f : PFlag) : (raise f s).slot = s.slot := by cases f <;> rfl
@[simp] theorem raise_ackPend (f : PFlag) : (raise f s).ackPend = s.ackPend := by cases f <;> rfl
@[simp] theorem raise_flagsC (f : PFlag) : (raise f s).flagsC = s.flagsC := by cases f <;> rfl
@[simp] theorem raise_proto (f : PFlag) : (raise f s).proto = s.proto := by cases f <;> rfl
@[simp] theorem raise_rdata (f : PFlag) : (raise f s).rdata = s.rdata := by cases f <;> rfl
@[simp] theorem raise_draws (f : PFlag) : (raise f s).draws = s.draws := by cases f <;> rfl
@[simp] theorem raise_inputs (f : PFlag) : (raise f s).inputs = s.inputs := by cases f <;> rfl

@[simp] theorem raiseProto_cfg : (raiseProto s).cfg = s.cfg := rfl
@[simp] theorem raiseProto_runP : (raiseProto s).runP = s.runP := rfl
@[simp] theorem raiseProto_acc : (raiseProto s).acc = s.acc := rfl
@[simp] theorem raiseProto_wcnt : (raiseProto s).wcnt = s.wcnt := rfl
@[simp] theorem raiseProto_cursor : (raiseProto s).cursor = s.cursor := rfl
@[simp] theorem raiseProto_active : (raiseProto s).active = s.active := rfl
@[simp] theorem raiseProto_q : (raiseProto s).q = s.q := rfl
@[simp] theorem raiseProto_flagsP : (raiseProto s).flagsP = s.flagsP := rfl
@[simp] theorem raiseProto_ovfCnt : (raiseProto s).ovfCnt = s.ovfCnt := rfl
@[simp] theorem raiseProto_missCnt : (raiseProto s).missCnt = s.missCnt := rfl
@[simp] theorem raiseProto_lostCnt : (raiseProto s).lostCnt = s.lostCnt := rfl
@[simp] theorem raiseProto_buf : (raiseProto s).buf = s.buf := rfl
@[simp] theorem raiseProto_runReq : (raiseProto s).runReq = s.runReq := rfl
@[simp] theorem raiseProto_stopReq : (raiseProto s).stopReq = s.stopReq := rfl
@[simp] theorem raiseProto_sch : (raiseProto s).sch = s.sch := rfl
@[simp] theorem raiseProto_slot : (raiseProto s).slot = s.slot := rfl
@[simp] theorem raiseProto_ackPend : (raiseProto s).ackPend = s.ackPend := rfl
@[simp] theorem raiseProto_flagsC : (raiseProto s).flagsC = s.flagsC := rfl
@[simp] theorem raiseProto_proto : (raiseProto s).proto = true := rfl
@[simp] theorem raiseProto_rdata : (raiseProto s).rdata = s.rdata := rfl
@[simp] theorem raiseProto_draws : (raiseProto s).draws = s.draws := rfl
@[simp] theorem raiseProto_inputs : (raiseProto s).inputs = s.inputs := rfl

@[simp] theorem memWrite_cfg (i : BufIdx) (o v : Nat) : (memWrite i o v s).cfg = s.cfg := rfl
@[simp] theorem memWrite_runP (i : BufIdx) (o v : Nat) : (memWrite i o v s).runP = s.runP := rfl
@[simp] theorem memWrite_acc (i : BufIdx) (o v : Nat) : (memWrite i o v s).acc = s.acc := rfl
@[simp] theorem memWrite_wcnt (i : BufIdx) (o v : Nat) : (memWrite i o v s).wcnt = s.wcnt := rfl
@[simp] theorem memWrite_cursor (i : BufIdx) (o v : Nat) : (memWrite i o v s).cursor = s.cursor := rfl
@[simp] theorem memWrite_active (i : BufIdx) (o v : Nat) : (memWrite i o v s).active = s.active := rfl
@[simp] theorem memWrite_q (i : BufIdx) (o v : Nat) : (memWrite i o v s).q = s.q := rfl
@[simp] theorem memWrite_flagsP (i : BufIdx) (o v : Nat) : (memWrite i o v s).flagsP = s.flagsP := rfl
@[simp] theorem memWrite_ovfCnt (i : BufIdx) (o v : Nat) : (memWrite i o v s).ovfCnt = s.ovfCnt := rfl
@[simp] theorem memWrite_missCnt (i : BufIdx) (o v : Nat) : (memWrite i o v s).missCnt = s.missCnt := rfl
@[simp] theorem memWrite_lostCnt (i : BufIdx) (o v : Nat) : (memWrite i o v s).lostCnt = s.lostCnt := rfl
@[simp] theorem memWrite_buf (i : BufIdx) (o v : Nat) : (memWrite i o v s).buf = s.buf.put i o v := rfl
@[simp] theorem memWrite_runReq (i : BufIdx) (o v : Nat) : (memWrite i o v s).runReq = s.runReq := rfl
@[simp] theorem memWrite_stopReq (i : BufIdx) (o v : Nat) : (memWrite i o v s).stopReq = s.stopReq := rfl
@[simp] theorem memWrite_sch (i : BufIdx) (o v : Nat) : (memWrite i o v s).sch = s.sch := rfl
@[simp] theorem memWrite_slot (i : BufIdx) (o v : Nat) : (memWrite i o v s).slot = s.slot := rfl
@[simp] theorem memWrite_ackPend (i : BufIdx) (o v : Nat) : (memWrite i o v s).ackPend = s.ackPend := rfl
@[simp] theorem memWrite_flagsC (i : BufIdx) (o v : Nat) : (memWrite i o v s).flagsC = s.flagsC := rfl
@[simp] theorem memWrite_proto (i : BufIdx) (o v : Nat) : (memWrite i o v s).proto = s.proto := rfl
@[simp] theorem memWrite_rdata (i : BufIdx) (o v : Nat) : (memWrite i o v s).rdata = s.rdata := rfl
@[simp] theorem memWrite_draws (i : BufIdx) (o v : Nat) : (memWrite i o v s).draws = s.draws := rfl
@[simp] theorem memWrite_inputs (i : BufIdx) (o v : Nat) : (memWrite i o v s).inputs = s.inputs := rfl

@[simp] theorem setRdata_cfg (v : Word) : (setRdata v s).cfg = s.cfg := rfl
@[simp] theorem setRdata_runP (v : Word) : (setRdata v s).runP = s.runP := rfl
@[simp] theorem setRdata_acc (v : Word) : (setRdata v s).acc = s.acc := rfl
@[simp] theorem setRdata_wcnt (v : Word) : (setRdata v s).wcnt = s.wcnt := rfl
@[simp] theorem setRdata_cursor (v : Word) : (setRdata v s).cursor = s.cursor := rfl
@[simp] theorem setRdata_active (v : Word) : (setRdata v s).active = s.active := rfl
@[simp] theorem setRdata_q (v : Word) : (setRdata v s).q = s.q := rfl
@[simp] theorem setRdata_flagsP (v : Word) : (setRdata v s).flagsP = s.flagsP := rfl
@[simp] theorem setRdata_ovfCnt (v : Word) : (setRdata v s).ovfCnt = s.ovfCnt := rfl
@[simp] theorem setRdata_missCnt (v : Word) : (setRdata v s).missCnt = s.missCnt := rfl
@[simp] theorem setRdata_lostCnt (v : Word) : (setRdata v s).lostCnt = s.lostCnt := rfl
@[simp] theorem setRdata_buf (v : Word) : (setRdata v s).buf = s.buf := rfl
@[simp] theorem setRdata_runReq (v : Word) : (setRdata v s).runReq = s.runReq := rfl
@[simp] theorem setRdata_stopReq (v : Word) : (setRdata v s).stopReq = s.stopReq := rfl
@[simp] theorem setRdata_sch (v : Word) : (setRdata v s).sch = s.sch := rfl
@[simp] theorem setRdata_slot (v : Word) : (setRdata v s).slot = s.slot := rfl
@[simp] theorem setRdata_ackPend (v : Word) : (setRdata v s).ackPend = s.ackPend := rfl
@[simp] theorem setRdata_flagsC (v : Word) : (setRdata v s).flagsC = s.flagsC := rfl
@[simp] theorem setRdata_proto (v : Word) : (setRdata v s).proto = s.proto := rfl
@[simp] theorem setRdata_rdata (v : Word) : (setRdata v s).rdata = v := rfl
@[simp] theorem setRdata_draws (v : Word) : (setRdata v s).draws = s.draws := rfl
@[simp] theorem setRdata_inputs (v : Word) : (setRdata v s).inputs = s.inputs := rfl

@[simp] theorem drawRdata_cfg (v : Word) : (drawRdata v s).cfg = s.cfg := rfl
@[simp] theorem drawRdata_runP (v : Word) : (drawRdata v s).runP = s.runP := rfl
@[simp] theorem drawRdata_acc (v : Word) : (drawRdata v s).acc = s.acc := rfl
@[simp] theorem drawRdata_wcnt (v : Word) : (drawRdata v s).wcnt = s.wcnt := rfl
@[simp] theorem drawRdata_cursor (v : Word) : (drawRdata v s).cursor = s.cursor := rfl
@[simp] theorem drawRdata_active (v : Word) : (drawRdata v s).active = s.active := rfl
@[simp] theorem drawRdata_q (v : Word) : (drawRdata v s).q = s.q := rfl
@[simp] theorem drawRdata_flagsP (v : Word) : (drawRdata v s).flagsP = s.flagsP := rfl
@[simp] theorem drawRdata_ovfCnt (v : Word) : (drawRdata v s).ovfCnt = s.ovfCnt := rfl
@[simp] theorem drawRdata_missCnt (v : Word) : (drawRdata v s).missCnt = s.missCnt := rfl
@[simp] theorem drawRdata_lostCnt (v : Word) : (drawRdata v s).lostCnt = s.lostCnt := rfl
@[simp] theorem drawRdata_buf (v : Word) : (drawRdata v s).buf = s.buf := rfl
@[simp] theorem drawRdata_runReq (v : Word) : (drawRdata v s).runReq = s.runReq := rfl
@[simp] theorem drawRdata_stopReq (v : Word) : (drawRdata v s).stopReq = s.stopReq := rfl
@[simp] theorem drawRdata_sch (v : Word) : (drawRdata v s).sch = s.sch := rfl
@[simp] theorem drawRdata_slot (v : Word) : (drawRdata v s).slot = s.slot := rfl
@[simp] theorem drawRdata_ackPend (v : Word) : (drawRdata v s).ackPend = s.ackPend := rfl
@[simp] theorem drawRdata_flagsC (v : Word) : (drawRdata v s).flagsC = s.flagsC := rfl
@[simp] theorem drawRdata_proto (v : Word) : (drawRdata v s).proto = s.proto := rfl
@[simp] theorem drawRdata_rdata (v : Word) : (drawRdata v s).rdata = v := rfl
@[simp] theorem drawRdata_draws (v : Word) : (drawRdata v s).draws = s.draws + 1 := rfl
@[simp] theorem drawRdata_inputs (v : Word) : (drawRdata v s).inputs = s.inputs := rfl

@[simp] theorem withInputs_cfg (l : List Input) : (withInputs l s).cfg = s.cfg := rfl
@[simp] theorem withInputs_runP (l : List Input) : (withInputs l s).runP = s.runP := rfl
@[simp] theorem withInputs_acc (l : List Input) : (withInputs l s).acc = s.acc := rfl
@[simp] theorem withInputs_wcnt (l : List Input) : (withInputs l s).wcnt = s.wcnt := rfl
@[simp] theorem withInputs_cursor (l : List Input) : (withInputs l s).cursor = s.cursor := rfl
@[simp] theorem withInputs_active (l : List Input) : (withInputs l s).active = s.active := rfl
@[simp] theorem withInputs_q (l : List Input) : (withInputs l s).q = s.q := rfl
@[simp] theorem withInputs_flagsP (l : List Input) : (withInputs l s).flagsP = s.flagsP := rfl
@[simp] theorem withInputs_ovfCnt (l : List Input) : (withInputs l s).ovfCnt = s.ovfCnt := rfl
@[simp] theorem withInputs_missCnt (l : List Input) : (withInputs l s).missCnt = s.missCnt := rfl
@[simp] theorem withInputs_lostCnt (l : List Input) : (withInputs l s).lostCnt = s.lostCnt := rfl
@[simp] theorem withInputs_buf (l : List Input) : (withInputs l s).buf = s.buf := rfl
@[simp] theorem withInputs_runReq (l : List Input) : (withInputs l s).runReq = s.runReq := rfl
@[simp] theorem withInputs_stopReq (l : List Input) : (withInputs l s).stopReq = s.stopReq := rfl
@[simp] theorem withInputs_sch (l : List Input) : (withInputs l s).sch = s.sch := rfl
@[simp] theorem withInputs_slot (l : List Input) : (withInputs l s).slot = s.slot := rfl
@[simp] theorem withInputs_ackPend (l : List Input) : (withInputs l s).ackPend = s.ackPend := rfl
@[simp] theorem withInputs_flagsC (l : List Input) : (withInputs l s).flagsC = s.flagsC := rfl
@[simp] theorem withInputs_proto (l : List Input) : (withInputs l s).proto = s.proto := rfl
@[simp] theorem withInputs_rdata (l : List Input) : (withInputs l s).rdata = s.rdata := rfl
@[simp] theorem withInputs_draws (l : List Input) : (withInputs l s).draws = s.draws := rfl
@[simp] theorem withInputs_inputs (l : List Input) : (withInputs l s).inputs = l := rfl

@[simp] theorem presentWord_cfg (w : PortWord) : (presentWord w s).cfg = s.cfg := rfl
@[simp] theorem presentWord_runP (w : PortWord) : (presentWord w s).runP = s.runP := rfl
@[simp] theorem presentWord_acc (w : PortWord) : (presentWord w s).acc = s.acc := rfl
@[simp] theorem presentWord_wcnt (w : PortWord) : (presentWord w s).wcnt = s.wcnt := rfl
@[simp] theorem presentWord_cursor (w : PortWord) : (presentWord w s).cursor = s.cursor := rfl
@[simp] theorem presentWord_active (w : PortWord) : (presentWord w s).active = s.active := rfl
@[simp] theorem presentWord_q (w : PortWord) : (presentWord w s).q = s.q := rfl
@[simp] theorem presentWord_flagsP (w : PortWord) : (presentWord w s).flagsP = s.flagsP := rfl
@[simp] theorem presentWord_ovfCnt (w : PortWord) : (presentWord w s).ovfCnt = s.ovfCnt := rfl
@[simp] theorem presentWord_missCnt (w : PortWord) : (presentWord w s).missCnt = s.missCnt := rfl
@[simp] theorem presentWord_lostCnt (w : PortWord) : (presentWord w s).lostCnt = s.lostCnt := rfl
@[simp] theorem presentWord_buf (w : PortWord) : (presentWord w s).buf = s.buf := rfl
@[simp] theorem presentWord_runReq (w : PortWord) : (presentWord w s).runReq = s.runReq := rfl
@[simp] theorem presentWord_stopReq (w : PortWord) : (presentWord w s).stopReq = s.stopReq := rfl
@[simp] theorem presentWord_sch (w : PortWord) : (presentWord w s).sch = s.sch := rfl
@[simp] theorem presentWord_slot (w : PortWord) : (presentWord w s).slot = s.slot := rfl
@[simp] theorem presentWord_ackPend (w : PortWord) : (presentWord w s).ackPend = s.ackPend := rfl
@[simp] theorem presentWord_flagsC (w : PortWord) : (presentWord w s).flagsC = s.flagsC := rfl
@[simp] theorem presentWord_proto (w : PortWord) : (presentWord w s).proto = s.proto := rfl
@[simp] theorem presentWord_rdata (w : PortWord) : (presentWord w s).rdata = s.rdata := rfl
@[simp] theorem presentWord_draws (w : PortWord) : (presentWord w s).draws = s.draws := rfl
@[simp] theorem presentWord_inputs (w : PortWord) : (presentWord w s).inputs = portInput w :: s.inputs := rfl

@[simp] theorem runsync_cfg : (runsync s).cfg = s.cfg := rfl
@[simp] theorem runsync_runP : (runsync s).runP = s.runReq := rfl
@[simp] theorem runsync_acc : (runsync s).acc = s.acc := rfl
@[simp] theorem runsync_wcnt : (runsync s).wcnt = s.wcnt := rfl
@[simp] theorem runsync_cursor : (runsync s).cursor = s.cursor := rfl
@[simp] theorem runsync_active : (runsync s).active = s.active := rfl
@[simp] theorem runsync_q : (runsync s).q = s.q := rfl
@[simp] theorem runsync_flagsP : (runsync s).flagsP = s.flagsP := rfl
@[simp] theorem runsync_ovfCnt : (runsync s).ovfCnt = s.ovfCnt := rfl
@[simp] theorem runsync_missCnt : (runsync s).missCnt = s.missCnt := rfl
@[simp] theorem runsync_lostCnt : (runsync s).lostCnt = s.lostCnt := rfl
@[simp] theorem runsync_buf : (runsync s).buf = s.buf := rfl
@[simp] theorem runsync_runReq : (runsync s).runReq = s.runReq := rfl
@[simp] theorem runsync_stopReq : (runsync s).stopReq = s.stopReq := rfl
@[simp] theorem runsync_sch : (runsync s).sch = s.sch := rfl
@[simp] theorem runsync_slot : (runsync s).slot = s.slot := rfl
@[simp] theorem runsync_ackPend : (runsync s).ackPend = s.ackPend := rfl
@[simp] theorem runsync_flagsC : (runsync s).flagsC = s.flagsC := rfl
@[simp] theorem runsync_proto : (runsync s).proto = s.proto := rfl
@[simp] theorem runsync_rdata : (runsync s).rdata = s.rdata := rfl
@[simp] theorem runsync_draws : (runsync s).draws = s.draws := rfl
@[simp] theorem runsync_inputs : (runsync s).inputs = s.inputs := rfl

@[simp] theorem deliver_cfg : (deliver s).cfg = s.cfg := rfl
@[simp] theorem deliver_runP : (deliver s).runP = s.runP := rfl
@[simp] theorem deliver_acc : (deliver s).acc = s.acc := rfl
@[simp] theorem deliver_wcnt : (deliver s).wcnt = s.wcnt := rfl
@[simp] theorem deliver_cursor : (deliver s).cursor = s.cursor := rfl
@[simp] theorem deliver_active : (deliver s).active = s.active := rfl
@[simp] theorem deliver_q : (deliver s).q = s.q := rfl
@[simp] theorem deliver_flagsP : (deliver s).flagsP = s.flagsP := rfl
@[simp] theorem deliver_ovfCnt : (deliver s).ovfCnt = s.ovfCnt := rfl
@[simp] theorem deliver_missCnt : (deliver s).missCnt = s.missCnt := rfl
@[simp] theorem deliver_lostCnt : (deliver s).lostCnt = s.lostCnt := rfl
@[simp] theorem deliver_buf : (deliver s).buf = s.buf := rfl
@[simp] theorem deliver_runReq : (deliver s).runReq = s.runReq := rfl
@[simp] theorem deliver_stopReq : (deliver s).stopReq = s.stopReq := rfl
@[simp] theorem deliver_sch : (deliver s).sch = .pending := rfl
@[simp] theorem deliver_slot : (deliver s).slot = s.q.headD s.slot := rfl
@[simp] theorem deliver_ackPend : (deliver s).ackPend = s.ackPend := rfl
@[simp] theorem deliver_flagsC : (deliver s).flagsC = s.flagsC := rfl
@[simp] theorem deliver_proto : (deliver s).proto = s.proto := rfl
@[simp] theorem deliver_rdata : (deliver s).rdata = s.rdata := rfl
@[simp] theorem deliver_draws : (deliver s).draws = s.draws := rfl
@[simp] theorem deliver_inputs : (deliver s).inputs = s.inputs := rfl

@[simp] theorem retire_cfg : (retire s).cfg = s.cfg := rfl
@[simp] theorem retire_runP : (retire s).runP = s.runP := rfl
@[simp] theorem retire_acc : (retire s).acc = s.acc := rfl
@[simp] theorem retire_wcnt : (retire s).wcnt = s.wcnt := rfl
@[simp] theorem retire_cursor : (retire s).cursor = s.cursor := rfl
@[simp] theorem retire_active : (retire s).active = s.active := rfl
@[simp] theorem retire_q : (retire s).q = s.q.tail := rfl
@[simp] theorem retire_flagsP : (retire s).flagsP = s.flagsP := rfl
@[simp] theorem retire_ovfCnt : (retire s).ovfCnt = s.ovfCnt := rfl
@[simp] theorem retire_missCnt : (retire s).missCnt = s.missCnt := rfl
@[simp] theorem retire_lostCnt : (retire s).lostCnt = s.lostCnt := rfl
@[simp] theorem retire_buf : (retire s).buf = s.buf := rfl
@[simp] theorem retire_runReq : (retire s).runReq = s.runReq := rfl
@[simp] theorem retire_stopReq : (retire s).stopReq = s.stopReq := rfl
@[simp] theorem retire_sch : (retire s).sch = s.sch := rfl
@[simp] theorem retire_slot : (retire s).slot = s.slot := rfl
@[simp] theorem retire_ackPend : (retire s).ackPend = false := rfl
@[simp] theorem retire_flagsC : (retire s).flagsC = s.flagsC := rfl
@[simp] theorem retire_proto : (retire s).proto = s.proto := rfl
@[simp] theorem retire_rdata : (retire s).rdata = s.rdata := rfl
@[simp] theorem retire_draws : (retire s).draws = s.draws := rfl
@[simp] theorem retire_inputs : (retire s).inputs = s.inputs := rfl

@[simp] theorem flagsync_cfg (c : BitVec 5) : (flagsync c s).cfg = s.cfg := rfl
@[simp] theorem flagsync_runP (c : BitVec 5) : (flagsync c s).runP = s.runP := rfl
@[simp] theorem flagsync_acc (c : BitVec 5) : (flagsync c s).acc = s.acc := rfl
@[simp] theorem flagsync_wcnt (c : BitVec 5) : (flagsync c s).wcnt = s.wcnt := rfl
@[simp] theorem flagsync_cursor (c : BitVec 5) : (flagsync c s).cursor = s.cursor := rfl
@[simp] theorem flagsync_active (c : BitVec 5) : (flagsync c s).active = s.active := rfl
@[simp] theorem flagsync_q (c : BitVec 5) : (flagsync c s).q = s.q := rfl
@[simp] theorem flagsync_flagsP (c : BitVec 5) : (flagsync c s).flagsP = s.flagsP := rfl
@[simp] theorem flagsync_ovfCnt (c : BitVec 5) : (flagsync c s).ovfCnt = s.ovfCnt := rfl
@[simp] theorem flagsync_missCnt (c : BitVec 5) : (flagsync c s).missCnt = s.missCnt := rfl
@[simp] theorem flagsync_lostCnt (c : BitVec 5) : (flagsync c s).lostCnt = s.lostCnt := rfl
@[simp] theorem flagsync_buf (c : BitVec 5) : (flagsync c s).buf = s.buf := rfl
@[simp] theorem flagsync_runReq (c : BitVec 5) : (flagsync c s).runReq = s.runReq := rfl
@[simp] theorem flagsync_stopReq (c : BitVec 5) : (flagsync c s).stopReq = s.stopReq := rfl
@[simp] theorem flagsync_sch (c : BitVec 5) : (flagsync c s).sch = s.sch := rfl
@[simp] theorem flagsync_slot (c : BitVec 5) : (flagsync c s).slot = s.slot := rfl
@[simp] theorem flagsync_ackPend (c : BitVec 5) : (flagsync c s).ackPend = s.ackPend := rfl
@[simp] theorem flagsync_flagsC (c : BitVec 5) : (flagsync c s).flagsC = s.flagsC ||| copiedFlags c s := rfl
@[simp] theorem flagsync_proto (c : BitVec 5) : (flagsync c s).proto = s.proto := rfl
@[simp] theorem flagsync_rdata (c : BitVec 5) : (flagsync c s).rdata = s.rdata := rfl
@[simp] theorem flagsync_draws (c : BitVec 5) : (flagsync c s).draws = s.draws := rfl
@[simp] theorem flagsync_inputs (c : BitVec 5) : (flagsync c s).inputs = s.inputs := rfl

@[simp] theorem quiesce_cfg : (quiesce s).cfg = s.cfg := rfl
@[simp] theorem quiesce_runP : (quiesce s).runP = s.runP := rfl
@[simp] theorem quiesce_acc : (quiesce s).acc = s.acc := rfl
@[simp] theorem quiesce_wcnt : (quiesce s).wcnt = s.wcnt := rfl
@[simp] theorem quiesce_cursor : (quiesce s).cursor = s.cursor := rfl
@[simp] theorem quiesce_active : (quiesce s).active = s.active := rfl
@[simp] theorem quiesce_q : (quiesce s).q = s.q := rfl
@[simp] theorem quiesce_flagsP : (quiesce s).flagsP = s.flagsP := rfl
@[simp] theorem quiesce_ovfCnt : (quiesce s).ovfCnt = s.ovfCnt := rfl
@[simp] theorem quiesce_missCnt : (quiesce s).missCnt = s.missCnt := rfl
@[simp] theorem quiesce_lostCnt : (quiesce s).lostCnt = s.lostCnt := rfl
@[simp] theorem quiesce_buf : (quiesce s).buf = s.buf := rfl
@[simp] theorem quiesce_runReq : (quiesce s).runReq = s.runReq := rfl
@[simp] theorem quiesce_stopReq : (quiesce s).stopReq = s.stopReq := rfl
@[simp] theorem quiesce_sch : (quiesce s).sch = .stopped := rfl
@[simp] theorem quiesce_slot : (quiesce s).slot = s.slot := rfl
@[simp] theorem quiesce_ackPend : (quiesce s).ackPend = s.ackPend := rfl
@[simp] theorem quiesce_flagsC : (quiesce s).flagsC = s.flagsC := rfl
@[simp] theorem quiesce_proto : (quiesce s).proto = s.proto := rfl
@[simp] theorem quiesce_rdata : (quiesce s).rdata = s.rdata := rfl
@[simp] theorem quiesce_draws : (quiesce s).draws = s.draws := rfl
@[simp] theorem quiesce_inputs : (quiesce s).inputs = s.inputs := rfl

@[simp] theorem raise_ovf_ovfCnt : (raise .ovf s).ovfCnt = satInc s.cfg s.ovfCnt := rfl
@[simp] theorem raise_miss_ovfCnt : (raise .miss s).ovfCnt = s.ovfCnt := rfl
@[simp] theorem raise_lost_ovfCnt : (raise .lost s).ovfCnt = s.ovfCnt := rfl
@[simp] theorem raise_red_ovfCnt : (raise .red s).ovfCnt = s.ovfCnt := rfl
@[simp] theorem raise_abt_ovfCnt : (raise .abt s).ovfCnt = s.ovfCnt := rfl
@[simp] theorem raise_miss_missCnt : (raise .miss s).missCnt = satInc s.cfg s.missCnt := rfl
@[simp] theorem raise_ovf_missCnt : (raise .ovf s).missCnt = s.missCnt := rfl
@[simp] theorem raise_lost_missCnt : (raise .lost s).missCnt = s.missCnt := rfl
@[simp] theorem raise_red_missCnt : (raise .red s).missCnt = s.missCnt := rfl
@[simp] theorem raise_abt_missCnt : (raise .abt s).missCnt = s.missCnt := rfl
@[simp] theorem raise_lost_lostCnt : (raise .lost s).lostCnt = satInc s.cfg s.lostCnt := rfl
@[simp] theorem raise_ovf_lostCnt : (raise .ovf s).lostCnt = s.lostCnt := rfl
@[simp] theorem raise_miss_lostCnt : (raise .miss s).lostCnt = s.lostCnt := rfl
@[simp] theorem raise_red_lostCnt : (raise .red s).lostCnt = s.lostCnt := rfl
@[simp] theorem raise_abt_lostCnt : (raise .abt s).lostCnt = s.lostCnt := rfl

end Sys2Proof.Machine
end

