-- ==== Sys2Proof/Laws/Memory.lean ====
section
/-! SUPPORT. The laws of the buffer memory: a read after a write, every other location as before, the canonical form
kept. -/

namespace Sys2Proof.Machine

@[simp] theorem cellGet_cellPut_same (l : List Cell) (k v : Nat) : cellGet (cellPut l k v) k = some v := by
  induction l with
  | nil => simp [cellPut, cellGet]
  | cons c rest ih =>
    obtain ⟨a, u⟩ := c
    by_cases h1 : k < a
    · simp [cellPut, cellGet, h1]
    · by_cases h2 : k = a
      · simp [cellPut, cellGet, h2]
      · simp [cellPut, cellGet, h1, h2, ih]

theorem cellGet_cellPut_other (l : List Cell) (k v j : Nat) (hj : j ≠ k) :
    cellGet (cellPut l k v) j = cellGet l j := by
  induction l with
  | nil => simp [cellPut, cellGet, hj]
  | cons c rest ih =>
    obtain ⟨a, u⟩ := c
    by_cases h1 : k < a
    · simp [cellPut, cellGet, h1, hj]
    · by_cases h2 : k = a
      · subst h2; simp [cellPut, cellGet, hj]
      · simp only [cellPut, h1, h2, if_false, cellGet, ih]

theorem fst_of_mem_cellPut {l : List Cell} {k v : Nat} {c : Cell} (h : c ∈ cellPut l k v) : c.1 = k ∨ c ∈ l := by
  induction l with
  | nil => simp only [cellPut, List.mem_singleton] at h; simp [h]
  | cons d rest ih =>
    obtain ⟨a, u⟩ := d
    simp only [cellPut] at h
    split at h
    · obtain rfl | h := List.mem_cons.1 h
      · exact .inl rfl
      · exact .inr h
    · split at h
      · obtain rfl | h := List.mem_cons.1 h
        · exact .inl rfl
        · exact .inr (List.mem_cons_of_mem _ h)
      · obtain rfl | h := List.mem_cons.1 h
        · exact .inr (List.mem_cons_self ..)
        · exact (ih h).imp id (List.mem_cons_of_mem _)

theorem cellPut_rising {l : List Cell} (h : l.Pairwise (fun a b => a.1 < b.1)) (k v : Nat) :
    (cellPut l k v).Pairwise (fun a b => a.1 < b.1) := by
  induction l with
  | nil => simp [cellPut]
  | cons c rest ih =>
    obtain ⟨a, u⟩ := c
    obtain ⟨hd, tl⟩ := List.pairwise_cons.1 h
    simp only [cellPut]
    split
    · rename_i hk
      refine List.pairwise_cons.2 ⟨fun c hc => ?_, h⟩
      obtain rfl | hc := List.mem_cons.1 hc
      · exact hk
      · exact Nat.lt_trans hk (hd c hc)
    · split
      · rename_i _ hk
        exact List.pairwise_cons.2 ⟨fun c hc => hk ▸ hd c hc, tl⟩
      · rename_i h1 h2
        refine List.pairwise_cons.2 ⟨fun c hc => ?_, ih tl⟩
        rcases fst_of_mem_cellPut hc with hc | hc
        · simp only [hc]; omega
        · exact hd c hc

@[simp] theorem Memory.get_put_same (m : Memory) (i : BufIdx) (o v : Nat) : (m.put i o v).get i o = some v := by
  cases i <;> simp [Memory.get, Memory.put, Memory.cells]

theorem Memory.get_put_other (m : Memory) (i : BufIdx) (o v : Nat) (j : BufIdx) (p : Nat) (h : ¬(j = i ∧ p = o)) :
    (m.put i o v).get j p = m.get j p := by
  cases i <;> cases j <;> simp_all [Memory.get, Memory.put, Memory.cells, cellGet_cellPut_other]

theorem Memory.wf_put {m : Memory} (h : m.wf) (i : BufIdx) (o v : Nat) : (m.put i o v).wf := by
  cases i
  · exact ⟨cellPut_rising h.1 o v, h.2⟩
  · exact ⟨h.1, cellPut_rising h.2 o v⟩

/-- A location that is written stays written when another sample is stored. -/
theorem Memory.isSome_put {m : Memory} {j : BufIdx} {p : Nat} (h : (m.get j p).isSome = true) (i : BufIdx) (o v : Nat) :
    ((m.put i o v).get j p).isSome = true := by
  by_cases hjp : j = i ∧ p = o
  · obtain ⟨rfl, rfl⟩ := hjp; simp
  · rw [m.get_put_other i o v j p hjp]; exact h

/-- What can be read after a store: the stored sample at its place, what was there elsewhere. -/
theorem Memory.get_put (m : Memory) (i : BufIdx) (o v : Nat) (j : BufIdx) (p : Nat) :
    (m.put i o v).get j p = if j = i ∧ p = o then some v else m.get j p := by
  split
  · rename_i h; obtain ⟨rfl, rfl⟩ := h; simp
  · rename_i h; exact m.get_put_other i o v j p h

/-- The memory after RESET is canonical: nothing is listed. -/
theorem reset_memWf (cfg : Config) : (State.initial cfg).buf.wf := ⟨.nil, .nil⟩

end Sys2Proof.Machine
end

