-- ==== Sys2Proof/Laws/Ops.lean ====
section
/-! SUPPORT. What each shared operation of the producer path does: counts, flags, reduction, write, swap, notify. -/

namespace Sys2Proof.Machine

@[simp] theorem BufIdx_other_other (i : BufIdx) : i.other.other = i := by cases i <;> rfl

theorem BufIdx_other_ne (i : BufIdx) : i.other ≠ i := by cases i <;> decide

theorem BufIdx_eq_other_of_ne {i j : BufIdx} (h : i ≠ j) : i = j.other := by
  cases i <;> cases j <;> simp_all [BufIdx.other]

theorem popcount_le (n v : Nat) : popcount n v ≤ n := by
  induction n with
  | zero => simp [popcount]
  | succ n ih => have := Bool.toNat_le (v.testBit n); simp only [popcount]; omega

theorem satInc_le (cfg : Config) (c : Nat) : satInc cfg c ≤ cfg.CMAX := by
  unfold satInc; split <;> omega

theorem le_satInc {cfg : Config} {c : Nat} (h : c ≤ cfg.CMAX) : c ≤ satInc cfg c := by
  unfold satInc; split <;> omega

theorem satInc_mono {cfg : Config} {a b : Nat} (h : a ≤ b) : satInc cfg a ≤ satInc cfg b := by
  unfold satInc; split <;> split <;> omega

theorem reduceValue_le (cfg : Config) (v : Nat) : reduceValue cfg v ≤ cfg.SMAX := by
  unfold reduceValue
  split
  · assumption
  · have := Nat.two_pow_pos cfg.B
    have := Nat.mod_lt v this
    cases cfg.reduce with
    | clamp => exact Nat.le_refl _
    | trunc => simp only [Config.SMAX]; omega

/-! ## Flags -/

theorem hasFlag_or_mask (v : BitVec 5) (f g : PFlag) : hasFlag (v ||| f.mask) g = (hasFlag v g || decide (g = f)) := by
  cases f <;> cases g <;> simp [hasFlag, PFlag.mask, PFlag.bit]

@[simp] theorem hasFlag_or_mask_same (v : BitVec 5) (f : PFlag) : hasFlag (v ||| f.mask) f = true := by
  simp [hasFlag_or_mask]

theorem flagsLe_refl (a : BitVec 5) : flagsLe a a := by simp [flagsLe]

theorem flagsLe_iff (a b : BitVec 5) : flagsLe a b ↔ a ||| b = b := by
  revert a b; unfold flagsLe; decide

theorem flagsLe_trans {a b c : BitVec 5} (h : flagsLe a b) (h' : flagsLe b c) : flagsLe a c := by
  rw [flagsLe_iff] at *
  rw [← h', ← BitVec.or_assoc, h]

theorem flagsLe_or_right (a b : BitVec 5) : flagsLe a (a ||| b) := by
  rw [flagsLe_iff, ← BitVec.or_assoc, BitVec.or_self]

/-- The bits a FLAGSYNC copies are set in the producer's view. -/
theorem or_copiedFlags_le (c : BitVec 5) (s : State) (h : flagsLe s.flagsC s.flagsP) :
    flagsLe (s.flagsC ||| copiedFlags c s) s.flagsP := by
  have key : ∀ c a b : BitVec 5, a ||| b = b →
      (a ||| (if c &&& (b &&& ~~~a) = 0#5 then b &&& ~~~a else c &&& (b &&& ~~~a))) ||| b = b := by
    intro c a b h
    split
    · ext i hi
      have := congrArg (fun v => v[i]) h
      simp only [BitVec.getElem_or, BitVec.getElem_and, BitVec.getElem_not] at this ⊢
      revert this
      cases a[i] <;> cases b[i] <;> simp
    · ext i hi
      have := congrArg (fun v => v[i]) h
      simp only [BitVec.getElem_or, BitVec.getElem_and, BitVec.getElem_not] at this ⊢
      revert this
      cases a[i] <;> cases b[i] <;> simp
  rw [flagsLe_iff] at *
  exact key c _ _ h

/-! ## The swap, part by part -/

/-- The flags a swap raises, given the queue it finds (41_double_buffer.md R126, R127). -/
def swapFlags (cfg : Config) (q : List BufIdx) : BitVec 5 :=
  (if q = [] then 0#5 else match cfg.missPolicy with
    | .goOn => 0b00010#5
    | .abort => 0b10010#5) ||| if q.length < cfg.Q then 0#5 else 0b00100#5

theorem missCheck_eq (s : State) :
    missCheck s =
      { s with
        flagsP := s.flagsP ||| if s.q = [] then 0#5 else match s.cfg.missPolicy with
          | .goOn => 0b00010#5
          | .abort => 0b10010#5
        missCnt := if s.q = [] then s.missCnt else satInc s.cfg s.missCnt } := by
  have hm : PFlag.miss.mask = 0b00010#5 := by decide
  have ha : PFlag.abt.mask = 0b10000#5 := by decide
  unfold missCheck
  split
  · simp
  · cases s.cfg.missPolicy <;> simp [raise, setFlag, hm, ha, BitVec.or_assoc]

theorem appendRequest_eq (old : BufIdx) (s : State) :
    appendRequest old s =
      { s with
        q := if s.q.length < s.cfg.Q then s.q ++ [old] else s.q
        flagsP := s.flagsP ||| if s.q.length < s.cfg.Q then 0#5 else 0b00100#5
        lostCnt := if s.q.length < s.cfg.Q then s.lostCnt else satInc s.cfg s.lostCnt } := by
  have hl : PFlag.lost.mask = 0b00100#5 := by decide
  unfold appendRequest
  split <;> simp [raise, setFlag, hl]

/-- All of `notify`: the flags and counters of the check and of the append, and the queue. -/
theorem notify_eq (old : BufIdx) (s : State) :
    notify old s =
      { s with
        q := if s.q.length < s.cfg.Q then s.q ++ [old] else s.q
        flagsP := s.flagsP ||| swapFlags s.cfg s.q
        missCnt := if s.q = [] then s.missCnt else satInc s.cfg s.missCnt
        lostCnt := if s.q.length < s.cfg.Q then s.lostCnt else satInc s.cfg s.lostCnt } := by
  simp only [notify, appendRequest_eq, missCheck_eq, swapFlags, BitVec.or_assoc]

/-- The write that does not fill the buffer. -/
theorem writeSample_within {s : State} (h : s.cursor < s.cfg.L - 1) (v : Nat) :
    writeSample v s = { s with buf := s.buf.put s.active s.cursor v, cursor := s.cursor + 1 } := by
  simp [writeSample, h, memWrite]

/-- The write that fills the buffer swaps. -/
theorem writeSample_last {s : State} (h : ¬s.cursor < s.cfg.L - 1) (v : Nat) :
    writeSample v s =
      { s with
        buf := s.buf.put s.active s.cursor v
        cursor := 0
        active := s.active.other
        q := if s.q.length < s.cfg.Q then s.q ++ [s.active] else s.q
        flagsP := s.flagsP ||| swapFlags s.cfg s.q
        missCnt := if s.q = [] then s.missCnt else satInc s.cfg s.missCnt
        lostCnt := if s.q.length < s.cfg.Q then s.lostCnt else satInc s.cfg s.lostCnt } := by
  simp [writeSample, h, swap, notify_eq, memWrite]

/-- The flags a completed group raises by its reduction (40_decimator.md R104). -/
def reduceFlags (cfg : Config) (n : Nat) : BitVec 5 := if n ≤ cfg.SMAX then 0#5 else 0b01000#5

theorem reduceFlag_eq (n : Nat) (s : State) :
    reduceFlag n s = { s with flagsP := s.flagsP ||| reduceFlags s.cfg n } := by
  have hr : PFlag.red.mask = 0b01000#5 := by decide
  unfold reduceFlag reduceFlags
  split <;> simp [raise, setFlag, hr]

/-- A completed group whose sample does not fill the buffer. -/
theorem completeGroup_stores {s : State} (hc : s.cursor < s.cfg.L - 1) (n : Nat) :
    completeGroup n s =
      { s with
        acc := 0
        wcnt := 0
        flagsP := s.flagsP ||| reduceFlags s.cfg n
        buf := s.buf.put s.active s.cursor (reduceValue s.cfg n)
        cursor := s.cursor + 1 } := by
  simp [completeGroup, reduceFlag_eq, writeSample_within, hc]

/-- A completed group whose sample fills the buffer. -/
theorem completeGroup_swaps {s : State} (hc : ¬s.cursor < s.cfg.L - 1) (n : Nat) :
    completeGroup n s =
      { s with
        acc := 0
        wcnt := 0
        buf := s.buf.put s.active s.cursor (reduceValue s.cfg n)
        cursor := 0
        active := s.active.other
        q := if s.q.length < s.cfg.Q then s.q ++ [s.active] else s.q
        flagsP := s.flagsP ||| reduceFlags s.cfg n ||| swapFlags s.cfg s.q
        missCnt := if s.q = [] then s.missCnt else satInc s.cfg s.missCnt
        lostCnt := if s.q.length < s.cfg.Q then s.lostCnt else satInc s.cfg s.lostCnt } := by
  simp [completeGroup, reduceFlag_eq, writeSample_last, hc]

/-- A word inside a group is accumulated and nothing else happens. -/
theorem acceptWord_within {s : State} (h : s.wcnt < s.cfg.G - 1) (w : Nat) :
    acceptWord w s = { s with acc := s.acc + popcount s.cfg.W w, wcnt := s.wcnt + 1 } := by
  simp [acceptWord, h]

/-- The last word of a group completes it. -/
theorem acceptWord_completes {s : State} (h : ¬s.wcnt < s.cfg.G - 1) (w : Nat) :
    acceptWord w s = completeGroup (s.acc + popcount s.cfg.W w) s := by
  simp [acceptWord, h]

/-- All a PUSH can do, in three cases: inside a group, a sample inside the buffer, a sample that swaps. -/
theorem acceptWord_cases (w : Nat) (s : State) {P : State → Prop}
    (within : s.wcnt < s.cfg.G - 1 → P { s with acc := s.acc + popcount s.cfg.W w, wcnt := s.wcnt + 1 })
    (stores : ¬s.wcnt < s.cfg.G - 1 → s.cursor < s.cfg.L - 1 →
      P { s with
          acc := 0
          wcnt := 0
          flagsP := s.flagsP ||| reduceFlags s.cfg (s.acc + popcount s.cfg.W w)
          buf := s.buf.put s.active s.cursor (reduceValue s.cfg (s.acc + popcount s.cfg.W w))
          cursor := s.cursor + 1 })
    (swaps : ¬s.wcnt < s.cfg.G - 1 → ¬s.cursor < s.cfg.L - 1 →
      P { s with
          acc := 0
          wcnt := 0
          buf := s.buf.put s.active s.cursor (reduceValue s.cfg (s.acc + popcount s.cfg.W w))
          cursor := 0
          active := s.active.other
          q := if s.q.length < s.cfg.Q then s.q ++ [s.active] else s.q
          flagsP := s.flagsP ||| reduceFlags s.cfg (s.acc + popcount s.cfg.W w) ||| swapFlags s.cfg s.q
          missCnt := if s.q = [] then s.missCnt else satInc s.cfg s.missCnt
          lostCnt := if s.q.length < s.cfg.Q then s.lostCnt else satInc s.cfg s.lostCnt }) :
    P (acceptWord w s) := by
  by_cases h : s.wcnt < s.cfg.G - 1
  · rw [acceptWord_within h]; exact within h
  · by_cases hc : s.cursor < s.cfg.L - 1
    · rw [acceptWord_completes h, completeGroup_stores hc]; exact stores h hc
    · rw [acceptWord_completes h, completeGroup_swaps hc]; exact swaps h hc

theorem reportOverflow_eq (s : State) :
    reportOverflow s = { s with flagsP := s.flagsP ||| PFlag.ovf.mask, ovfCnt := satInc s.cfg s.ovfCnt } := rfl

/-- The read that is exact (20_memory.md R66). -/
theorem memRead_exact {s : State} {i : BufIdx} {o v : Nat} (ho : o < s.cfg.L) (hn : ¬(s.cap = true ∧ i = s.active))
    (hv : s.buf.get i o = some v) : memRead s i o = some v := by
  rw [memRead, if_neg (by omega), if_neg (by simpa using hn), hv]

/-- The three reads that are not. -/
theorem memRead_unspecified {s : State} {i : BufIdx} {o : Nat}
    (h : s.cfg.L ≤ o ∨ (s.cap = true ∧ i = s.active) ∨ s.buf.get i o = none) : memRead s i o = none := by
  unfold memRead
  rcases h with h | h | h
  · rw [if_pos h]
  · simp [h.1, h.2]
  · rw [h]; simp

/-- A drawn sample fits `B` bits. -/
theorem anySample_lt (s : State) : (anySample s).toNat < 2 ^ s.cfg.B := by
  rw [anySample, BitVec.toNat_ofNat]
  exact Nat.lt_of_le_of_lt (Nat.mod_le _ _) (Nat.mod_lt _ (Nat.two_pow_pos _))

/-- PUSH writes nothing outside the producer domain but the queue. -/
theorem acceptWord_consumerSame (w : Nat) (s : State) : ConsumerSame s (acceptWord w s) := by
  apply acceptWord_cases <;> intros <;> constructor <;> rfl

theorem reportOverflow_consumerSame (s : State) : ConsumerSame s (reportOverflow s) := by constructor <;> rfl

end Sys2Proof.Machine
end

