-- ==== Sys2Proof/Laws/Step.lean ====
section
/-! SUPPORT. What one step of the machine can do, said once: `Move` lists the transitions of each agent, `step_moves` says
that every step is one of them, and `step_keeps` packages the invariant argument over them. -/

namespace Sys2Proof.Machine

/-- Who takes a step (00_scope.md R6). -/
inductive Agent where
  | src
  | host
  | sync
  | rst
  deriving DecidableEq, Repr

/-- The agent whose step is next; with nothing pending it is SYNC. -/
def nextAgent (s : State) : Agent :=
  match s.inputs with
  | .src _ :: _ => .src
  | .host _ :: _ => .host
  | .sync _ :: _ => .sync
  | .rst :: _ => .rst
  | [] => .sync

/-- The transitions of each agent, pending steps and draws aside. -/
inductive Move : Agent → State → State → Prop where
  | stay (a : Agent) (s : State) : Move a s s
  | accept (w : Nat) (s : State) (hc : s.cap = true) (ho : s.cfg.ok = true) : Move .src s (acceptWord w s)
  | overflow (s : State) (hc : s.cap = true) (ho : s.cfg.ok = true) : Move .src s (reportOverflow s)
  | both (w : Nat) (s : State) (hc : s.cap = true) (ho : s.cfg.ok = true) :
      Move .src s (acceptWord w (reportOverflow s))
  | reject (s : State) : Move .host s (raiseProto s)
  | start (s : State) (h : startAccepted s = true) : Move .host s { s with runReq := true }
  | stop (s : State) (h : s.isFrozen = false) : Move .host s { s with runReq := false, stopReq := true }
  | take (s : State) (h : s.sch = .pending) : Move .host s { s with sch := .draining }
  | done (s : State) (h : s.sch = .draining) : Move .host s { s with sch := .idle, ackPend := true }
  | rdata (v : Word) (s : State) : Move .host s { s with rdata := v }
  | internal (k : SyncStep) (s : State) (h : syncEnabled k s = true) : Move .sync s (syncEffect k s)
  | reset (s : State) : Move .rst s (resetStep s)

/-- The agent that drives the port of an instruction (30_encoding.md R80). -/
def portAgent : Instr → Agent
  | .idle | .push _ | .ovf | .pushovf _ => .src
  | .nop | .start | .stop | .take | .read _ _ | .done | .rdstat _ | .rsvd7 => .host

theorem decodeP_portAgent {cfg : Config} {w : Nat} {i : Instr} (h : decodeP cfg w = .ok i) : portAgent i = .src := by
  unfold decodeP at h
  split at h
  · injection h with h
    subst h
    cases rawOvf cfg w <;> cases rawValid cfg w <;> rfl
  · cases h

theorem decodeC_portAgent (w : Word) : portAgent (decodeC w) = .host := by
  unfold decodeC; split <;> rfl

theorem whenCapturing_next {f : State → State} {s t : State} (h : whenCapturing f s = .next t) :
    t = s ∨ s.cap = true ∧ s.cfg.ok = true ∧ t = f s := by
  unfold whenCapturing at h
  split at h
  · rename_i hc
    split at h
    · rename_i ho
      exact .inr ⟨hc, ho, by injection h with h; exact h.symm⟩
    · cases h
  · exact .inl (by injection h with h; exact h.symm)

theorem quietStep_cases (s : State) :
    quietStep s = s ∨
      ∃ k, syncEnabled k s = true ∧ quietStep s = { syncEffect k s with draws := s.draws + 1 } := by
  unfold quietStep
  split
  · exact .inl rfl
  · rename_i k hk
    refine .inr ⟨k, ?_, rfl⟩
    have hm := List.mem_of_getElem? hk
    exact (List.mem_filter.1 hm).2

/-- Executing an instruction is a transition of the agent that drives its port, the draw counter aside. -/
theorem exec_moves {i : Instr} {s t : State} (h : exec i s = .next t) :
    ∃ u d, Move (portAgent i) s u ∧ t = { u with draws := d } := by
  have of : ∀ u : State, Move (portAgent i) s u → u = t → ∃ u d, Move (portAgent i) s u ∧ t = { u with draws := d } :=
    fun u hu e => ⟨u, u.draws, hu, e.symm⟩
  cases i with
  | idle => exact of s (Move.stay _ s) (by injection h)
  | nop => exact of s (Move.stay _ s) (by injection h)
  | push w =>
    rcases whenCapturing_next h with e | ⟨hc, ho, e⟩
    · exact of s (Move.stay _ s) e.symm
    · exact of _ (Move.accept w s hc ho) e.symm
  | ovf =>
    rcases whenCapturing_next h with e | ⟨hc, ho, e⟩
    · exact of s (Move.stay _ s) e.symm
    · exact of _ (Move.overflow s hc ho) e.symm
  | pushovf w =>
    rcases whenCapturing_next (f := fun u => acceptWord w (reportOverflow u)) h with e | ⟨hc, ho, e⟩
    · exact of s (Move.stay _ s) e.symm
    · exact of _ (Move.both w s hc ho) e.symm
  | start =>
    injection h with h
    split at h
    · exact of _ (Move.start s ‹_›) h
    · exact of _ (Move.reject s) h
  | stop =>
    injection h with h
    split at h
    · exact of s (Move.stay _ s) h
    · exact of _ (Move.stop s (Bool.eq_false_of_not_eq_true ‹_›)) h
  | take =>
    injection h with h
    split at h
    · exact of _ (Move.take s ‹_›) h
    · exact of _ (Move.reject s) h
  | done =>
    injection h with h
    split at h
    · exact of _ (Move.done s ‹_›) h
    · exact of _ (Move.reject s) h
  | rsvd7 => injection h with h; exact of _ (Move.reject s) h
  | read idx off =>
    simp only [exec, execRead] at h
    split at h <;> injection h with h
    · exact of _ (Move.rdata _ s) h
    · exact ⟨_, s.draws + 1, Move.rdata (anySample s) s, h.symm⟩
  | rdstat sel =>
    injection h with h
    split at h
    · exact ⟨_, s.draws + 1, Move.rdata (anyWord s) s, h.symm⟩
    · exact of _ (Move.rdata _ s) h

theorem runWord_next {w : PortWord} {s t : State} (h : runWord w s = .next t) :
    ∃ i, decode s.cfg w = .ok i ∧ exec i s = .next t := by
  unfold runWord at h
  split at h
  · exact ⟨_, ‹_›, h⟩
  · cases h

/-- Every step is a transition of the agent whose turn it is, from the state with its pending step taken off. -/
theorem step_moves {s t : State} (h : step s = .next t) :
    ∃ u d, Move (nextAgent s) (withInputs s.inputs.tail s) u ∧ t = { u with draws := d } := by
  unfold step at h
  unfold nextAgent
  split at h <;> rename_i hin <;> simp only [hin, List.tail_cons, List.tail_nil]
  · injection h with h
    have e : withInputs [] s = s := by simp [withInputs, ← hin]
    rw [e]
    rcases quietStep_cases s with hq | ⟨k, hk, hq⟩
    · exact ⟨s, s.draws, Move.stay _ s, by rw [← h, hq]⟩
    · exact ⟨_, _, Move.internal k s hk, by rw [← h, hq]⟩
  · obtain ⟨i, hd, he⟩ := runWord_next h
    have := exec_moves he
    rwa [decodeP_portAgent hd] at this
  · obtain ⟨i, hd, he⟩ := runWord_next h
    have := exec_moves he
    injection hd with hd
    rwa [← hd, decodeC_portAgent] at this
  · rename_i k rest
    injection h with h
    unfold syncTurn at h
    split at h
    · exact ⟨_, _, Move.internal k _ ‹_›, h.symm⟩
    · exact ⟨_, _, Move.stay _ _, h.symm⟩
  · injection h with h
    exact ⟨_, _, Move.reset _, h.symm⟩

/-- A property that does not look at the model's own fields and that every transition keeps is kept by every step. -/
theorem step_keeps {P : State → Prop} (model : ∀ s l d, P s → P { s with inputs := l, draws := d })
    (keeps : ∀ a s u, Move a s u → P s → P u) {s t : State} (h : step s = .next t) (hs : P s) : P t := by
  obtain ⟨u, d, hm, rfl⟩ := step_moves h
  exact model u u.inputs d (keeps _ _ u hm (model s _ s.draws hs))

/-- The agent that moves is RST exactly when RESET is pending first. -/
theorem nextAgent_ne_rst {s : State} (h : notReset s) : nextAgent s ≠ .rst := by
  unfold notReset at h
  unfold nextAgent
  split <;> simp_all

end Sys2Proof.Machine
end

