-- ==== Sys2Proof/Laws/Sync.lean ====
section
/-! SUPPORT. When the internal steps and START are enabled, as propositions; the pending steps and the draw counter do not
matter to them. -/

namespace Sys2Proof.Machine

theorem deliverEnabled_iff (s : State) : deliverEnabled s = true ↔ s.q ≠ [] ∧ s.sch = .idle ∧ s.ackPend = false := by
  simp [deliverEnabled, and_assoc]

theorem quiesceEnabled_iff (s : State) :
    quiesceEnabled s = true ↔
      (s.stopReq = true ∨ s.abortP = true) ∧ s.cap = false ∧ s.q = [] ∧ s.sch = .idle ∧ s.flagsC = s.flagsP := by
  simp [quiesceEnabled, and_assoc]

theorem startAccepted_iff (s : State) :
    startAccepted s = true ↔ s.sch = .idle ∧ s.runReq = false ∧ s.stopReq = false ∧ s.cfg.cfgerr = false := by
  simp [startAccepted, and_assoc]

theorem isFrozen_iff (s : State) : s.isFrozen = true ↔ s.sch = .stopped ∧ s.cfg.stoppedReading = .frozen := by
  simp [State.isFrozen]

theorem isFrozen_of_sch {s : State} (h : s.sch ≠ .stopped) : s.isFrozen = false := by simp [State.isFrozen, h]

/-- When each internal step is enabled (30_encoding.md R92). -/
theorem syncEnabled_iff (k : SyncStep) (s : State) :
    syncEnabled k s = true ↔
      match k with
      | .runsync => s.runP ≠ s.runReq ∧ s.isFrozen = false
      | .deliver => s.q ≠ [] ∧ s.sch = .idle ∧ s.ackPend = false
      | .retire => s.ackPend = true
      | .flagsync _ => s.flagsC ≠ s.flagsP
      | .quiesce =>
        (s.stopReq = true ∨ s.abortP = true) ∧ s.cap = false ∧ s.q = [] ∧ s.sch = .idle ∧ s.flagsC = s.flagsP := by
  cases k
  · simp [syncEnabled, runsyncEnabled]
  · exact deliverEnabled_iff s
  · exact Iff.rfl
  · simp [syncEnabled]
  · exact quiesceEnabled_iff s

@[simp] theorem withInputs_cap (l : List Input) (s : State) : (withInputs l s).cap = s.cap := rfl

@[simp] theorem withInputs_abortP (l : List Input) (s : State) : (withInputs l s).abortP = s.abortP := rfl

@[simp] theorem withInputs_syncEnabled (k : SyncStep) (l : List Input) (s : State) :
    syncEnabled k (withInputs l s) = syncEnabled k s := by cases k <;> rfl

/-- What a state and another that differs only in the model's own fields have in common. -/
theorem model_cap (s : State) (l : List Input) (d : Nat) : ({ s with inputs := l, draws := d } : State).cap = s.cap := rfl

theorem cap_of_abort {s : State} (h : s.abortP = true) : s.cap = false := by simp [State.cap, h]

theorem abortP_of_hasFlag {s : State} : s.abortP = hasFlag s.flagsP .abt := rfl

theorem reset_abortP (s : State) : (resetStep s).abortP = false := by
  have : (resetStep s).flagsP = 0#5 := rfl
  simp [State.abortP, this, hasFlag]

/-- A turn of SYNC: the step, if it is enabled. -/
theorem syncTurn_enabled {k : SyncStep} {s : State} (h : syncEnabled k s = true) : syncTurn k s = syncEffect k s := by
  simp [syncTurn, h]

theorem syncTurn_disabled {k : SyncStep} {s : State} (h : syncEnabled k s = false) : syncTurn k s = s := by
  simp [syncTurn, h]

end Sys2Proof.Machine
end

