-- ==== Sys2Proof/Laws/Fairness.lean ====
section
/-! SUPPORT. Endless runs: each step of one is a `Move`; what every move but RESET keeps holds ever after; and `leads_to`, the
one argument by which weak fairness makes an internal step happen. -/

namespace Sys2Proof.Machine

variable {σ : Nat → State} {α : Nat → Input}

/-- The agent whose step it is. -/
def agentOf : Input → Agent
  | .src _ => .src
  | .host _ => .host
  | .sync _ => .sync
  | .rst => .rst

theorem agentOf_ne_rst {a : Input} (h : a ≠ .rst) : agentOf a ≠ .rst := by cases a <;> simp_all [agentOf]

theorem nextAgent_withInputs (a : Input) (s : State) : nextAgent (withInputs [a] s) = agentOf a := by cases a <;> rfl

/-- Each step of an endless run is a transition of its agent. -/
theorem EndlessRun.move (h : EndlessRun σ α) (n : Nat) :
    ∃ u d, Move (agentOf (α n)) (withInputs [] (σ n)) u ∧ σ (n + 1) = { u with draws := d } := by
  have := step_moves (h n)
  rwa [nextAgent_withInputs] at this

/-- A turn of SYNC for an enabled step takes it. -/
theorem EndlessRun.takes (h : EndlessRun σ α) {n : Nat} {k : SyncStep} (ha : α n = .sync k)
    (hk : syncEnabled k (σ n) = true) : σ (n + 1) = syncEffect k (withInputs [] (σ n)) := by
  have := h n
  rw [ha] at this
  have e : step (withInputs [.sync k] (σ n)) = .next (syncTurn k (withInputs [] (σ n))) := rfl
  rw [e, syncTurn_enabled (by rw [withInputs_syncEnabled]; exact hk)] at this
  injection this with this
  exact this.symm

/-- Two turns for the same internal step are enabled in the same states. -/
theorem sameStep_enabled {k k' : SyncStep} (h : sameStep k k' = true) (s : State) :
    syncEnabled k' s = syncEnabled k s := by
  cases k <;> cases k' <;> first | rfl | cases h

/-- What every move but RESET keeps holds ever after, as long as RESET stays away. -/
theorem EndlessRun.keeps {P : State → Prop} (model : ∀ s l d, P s → P { s with inputs := l, draws := d })
    (keeps : ∀ a s u, a ≠ Agent.rst → Move a s u → P s → P u) (h : EndlessRun σ α) {n : Nat}
    (hr : ∀ m, n ≤ m → α m ≠ .rst) (hn : P (σ n)) (m : Nat) (hm : n ≤ m) : P (σ m) := by
  induction m, hm using Nat.le_induction with
  | base => exact hn
  | succ m hm ih =>
    obtain ⟨u, d, hu, e⟩ := h.move m
    rw [e]
    exact model u u.inputs d (keeps _ _ _ (agentOf_ne_rst (hr m hm)) hu (model _ _ (σ m).draws ih))

/-- Under weak fairness `P` leads to `Q` by the internal step `k`: `P` enables it, every move but RESET keeps `P` or
reaches `Q`, and the step's effect reaches `Q`. -/
theorem WeaklyFair.leads_to {P Q : State → Prop} (k : SyncStep)
    (modelP : ∀ s l d, P s → P { s with inputs := l, draws := d })
    (modelQ : ∀ s l d, Q s → Q { s with inputs := l, draws := d })
    (enables : ∀ s, P s → syncEnabled k s = true)
    (keeps : ∀ a s u, a ≠ Agent.rst → Move a s u → P s → P u ∨ Q u)
    (reaches : ∀ s k', sameStep k k' = true → P s → Q (syncEffect k' s))
    (h : EndlessRun σ α) (hf : WeaklyFair σ α) {n : Nat} (hr : ∀ m, n ≤ m → α m ≠ .rst) (hn : P (σ n)) :
    ∃ m, n ≤ m ∧ Q (σ m) := by
  by_contra hno
  have hP : ∀ m, n ≤ m → P (σ m) := by
    intro m hm
    induction m, hm using Nat.le_induction with
    | base => exact hn
    | succ m hm ih =>
      obtain ⟨u, d, hu, e⟩ := h.move m
      rcases keeps _ _ _ (agentOf_ne_rst (hr m hm)) hu (modelP _ _ (σ m).draws ih) with hp | hq
      · rw [e]; exact modelP u u.inputs d hp
      · exact absurd ⟨m + 1, by omega, by rw [e]; exact modelQ u u.inputs d hq⟩ hno
  obtain ⟨m, hm, ht⟩ := hf k n fun m hm => enables _ (hP m hm)
  obtain ⟨k', ha, hk⟩ : ∃ k', α m = .sync k' ∧ sameStep k k' = true := by
    unfold takesStep at ht
    split at ht
    · exact ⟨_, ‹_›, ht⟩
    all_goals cases ht
  refine hno ⟨m + 1, by omega, ?_⟩
  rw [h.takes ha (by rw [sameStep_enabled hk]; exact enables _ (hP m hm))]
  exact reaches _ _ hk (modelP _ _ (σ m).draws (hP m hm))

end Sys2Proof.Machine
end

