-- ==== Sys2Proof/Laws/PerInstr.lean ====
section
/-! SUPPORT. Per instruction: the word it encodes to has its port's width and the fixed bits of its row of
spec/opcode_table.json, at every value of its operands (30_encoding.md R82, R84). -/

namespace Sys2Proof.Laws.EncodeMatchesRow

/-- The fixed bits of a row: the two control bits of a P word, or the `match` under the mask `0xE0000000` of a C word. -/
inductive RowBits where
  | p (ovf valid : Bool)
  | c (op : Word)
  deriving DecidableEq, Repr

/-- The row of each instruction, from the opcode table. -/
def row : Instr → RowBits
  | .idle => .p false false
  | .push _ => .p false true
  | .ovf => .p true false
  | .pushovf _ => .p true true
  | .nop => .c 0x00000000
  | .start => .c 0x20000000
  | .stop => .c 0x40000000
  | .take => .c 0x60000000
  | .read _ _ => .c 0x80000000
  | .done => .c 0xA0000000
  | .rdstat _ => .c 0xC0000000
  | .rsvd7 => .c 0xE0000000

/-- The fixed bits of a port word. -/
def rowBits (cfg : Config) : PortWord → RowBits
  | .p w => .p (rawOvf cfg w) (rawValid cfg w)
  | .c w => .c (w &&& 0xE0000000)

/-- A word has its port's width. -/
def fits (cfg : Config) : PortWord → Prop
  | .p w => w < 2 ^ (cfg.W + 2)
  | .c _ => True

/-- The word of a well-formed `i` lies in `i`'s row. -/
def Statement (i : Instr) : Prop :=
  ∀ cfg, wellFormed cfg i = true → fits cfg (encode cfg i) ∧ rowBits cfg (encode cfg i) = row i

/-- A packed P word has the control bits it is packed from. -/
theorem packed (cfg : Config) (ovf valid : Bool) {w : Nat} (hw : w < 2 ^ cfg.W) :
    fits cfg (.p (packP cfg ovf valid w)) ∧ rowBits cfg (.p (packP cfg ovf valid w)) = .p ovf valid :=
  ⟨packP_lt cfg ovf valid hw, by rw [rowBits, rawOvf_packP cfg ovf valid hw, rawValid_packP cfg ovf valid hw]⟩

/-- A packed C word has, under the mask, its `op`. -/
theorem packedC (op : BitVec 3) (idx : BitVec 1) (off : BitVec 24) :
    packC op idx off &&& 0xE0000000 = packC op 0#1 0#24 := by
  apply BitVec.eq_of_getLsbD_eq
  intro j hj
  have mask : ∀ j < 32, BitVec.getLsbD (0xE0000000 : Word) j = decide (29 ≤ j) := by decide
  rw [BitVec.getLsbD_and, mask j hj, packC, packC, cWord_bit, cWord_bit]
  by_cases h1 : j < 24
  · simp [h1]; omega
  · by_cases h2 : j < 25
    · simp [h1, h2]; omega
    · by_cases h3 : j < 29
      · simp [h1, h2, h3]
      · simp [h1, h2, h3]; omega

/-- A C word and its fixed bits. -/
theorem packedC_row (cfg : Config) {w op : Word} (h : w &&& 0xE0000000 = op) :
    fits cfg (.c w) ∧ rowBits cfg (.c w) = .c op := ⟨trivial, congrArg RowBits.c h⟩

theorem idle : Statement .idle := fun cfg _ => packed cfg false false (Nat.two_pow_pos _)
theorem push (w : Nat) : Statement (.push w) := fun cfg h => packed cfg false true (of_decide_eq_true h)
theorem ovf : Statement .ovf := fun cfg _ => packed cfg true false (Nat.two_pow_pos _)
theorem pushovf (w : Nat) : Statement (.pushovf w) := fun cfg h => packed cfg true true (of_decide_eq_true h)
theorem nop : Statement .nop := fun _ _ => packedC_row _ (by decide)
theorem start : Statement .start := fun _ _ => packedC_row _ (by decide)
theorem stop : Statement .stop := fun _ _ => packedC_row _ (by decide)
theorem take : Statement .take := fun _ _ => packedC_row _ (by decide)

theorem read (idx : BufIdx) (off : BitVec 24) : Statement (.read idx off) := fun _ _ =>
  packedC_row _ ((packedC 4#3 idx.toBit off).trans (by decide))

theorem done : Statement .done := fun _ _ => packedC_row _ (by decide)
theorem rdstat (sel : StatReg) : Statement (.rdstat sel) := fun _ _ => packedC_row _ (by cases sel <;> decide)
theorem rsvd7 : Statement .rsvd7 := fun _ _ => packedC_row _ (by decide)

end Sys2Proof.Laws.EncodeMatchesRow
end

