-- ==== Sys2Proof/Laws/Run.lean ====
section
/-! SUPPORT. Runs of several steps: a run is its first steps and then the rest, and what every step keeps every run
keeps. -/

namespace Sys2Proof.Machine

theorem run_succ {s t : State} (h : step s = .next t) (n : Nat) : run (n + 1) s = run n t := by
  simp [run, h]

theorem run_add (m n : Nat) {s u : State} (h : run m s = .next u) : run (m + n) s = run n u := by
  induction m generalizing s with
  | zero => cases h; simp
  | succ m ih =>
    rw [Nat.succ_add]
    simp only [run] at h ⊢
    split at h
    · simpa using ih h
    · cases h
    · cases h

/-- A property that every step keeps is kept by every run. -/
theorem run_keeps {P : State → Prop} (keeps : ∀ s t, P s → step s = .next t → P t) (n : Nat) {s t : State}
    (h : run n s = .next t) (hs : P s) : P t := by
  induction n generalizing s with
  | zero => cases h; exact hs
  | succ n ih =>
    simp only [run] at h
    split at h
    · exact ih h (keeps _ _ hs ‹_›)
    · cases h
    · cases h

end Sys2Proof.Machine
end

