-- ==== Sys2Proof/Tests/Slice0.lean ====
section
/-! SUPPORT. The model's own tests. Expected results are those of the tables and programs of spec/95_test_vectors.md, or
worked by hand from the rule a test names; then, for every statement of Certificates/Slice0/Obligations.lean that has
hypotheses, a concrete state and operands that meet them, clause by clause. -/

namespace Sys2Proof.Tests

open Sys2Proof Sys2Proof.Machine

/-! ## Configurations and states -/

/-- Configuration T of 95_test_vectors.md. -/
def cfgT : Config :=
  { W := 4, OSR := 8, L := 2, B := 3, reduce := .clamp, Q := 2, missPolicy := .goOn, CNTW := 4,
    stoppedReading := .byPseudocode }

/-- A configuration for which ConfigOK fails (95_test_vectors.md 2.7). -/
def cfgBad : Config := { Config.reference with OSR := 250 }

/-- Capturing, nothing accumulated (step 3 of the programs). -/
def capturing (cfg : Config) : State := { State.initial cfg with runReq := true, runP := true }

/-- Program P1 after step 7, with its one request at the given stage. -/
def filled (sch : Sched) : State :=
  { capturing cfgT with
    active := .b1, q := [.b0], flagsP := 0x08, buf := { buf0 := [(0, 6), (1, 7)], buf1 := [] }, sch := sch }

/-- Program P3 after step 25. -/
def halted : State :=
  { State.initial cfgT with
    acc := 1, wcnt := 1, cursor := 1, active := .b1, buf := { buf0 := [(0, 2), (1, 3)], buf1 := [(0, 4)] },
    stopReq := true, sch := .stopped }

/-- Program P2 after step 15: two requests queued, one dropped. -/
def late : State :=
  { capturing cfgT with
    active := .b1, q := [.b0, .b1], flagsP := 0x06, missCnt := 2, lostCnt := 1,
    buf := { buf0 := [(0, 5), (1, 6)], buf1 := [(0, 3), (1, 4)] } }

/-- Program P5 after step 11: an aborted capture. -/
def aborted : State :=
  { capturing { cfgT with missPolicy := .abort } with
    q := [.b0, .b1], flagsP := 0x12, missCnt := 1, buf := { buf0 := [(0, 1), (1, 2)], buf1 := [(0, 3), (1, 4)] } }

/-- After an abort: both requests served, then STOP, then QUIESCE before RUNSYNC (assumption 11). -/
def abortedStopped : State :=
  { aborted with q := [], flagsC := 0x12, slot := .b1, runReq := false, stopReq := true, sch := .stopped }

/-- The same state under the reading of STOPPED by which nothing of the control state changes in it (assumption 11). -/
def frozen (s : State) : State := { s with cfg := { s.cfg with stoppedReading := .frozen } }

/-- Two requests queued and nothing else to tell, in configuration T. -/
def queued : State := { State.initial cfgT with q := [.b0, .b1] }

/-- The state with these pending steps. -/
def give (l : List Input) (s : State) : State := { s with inputs := l }

/-- The next state, if there is one. -/
def nextOf : Host.Outcome State Fault Refusal → Option State
  | .next t => some t
  | .fault _ => none
  | .refused _ => none

/-- A field of the state after one instruction. -/
def after {α : Type} (i : Instr) (s : State) (f : State → α) : Option α := (nextOf (exec i s)).map f

/-- A field of the state after one turn of SYNC. -/
def afterSync {α : Type} (k : SyncStep) (s : State) (f : State → α) : Option α :=
  (nextOf (step (give [.sync k] s))).map f

/-! ## WellFormed: every check refuses an ill-formed term -/

theorem test_wellFormed_push : wellFormed cfgT (.push 15) = true ∧ wellFormed cfgT (.push 16) = false := by decide

theorem test_wellFormed_pushovf :
    wellFormed Config.reference (.pushovf 0xFFFFFFFF) = true ∧
      wellFormed Config.reference (.pushovf 0x100000000) = false := by decide

/-! ## Decoding: words written out bit by bit from 30_encoding.md R82, R84 and 95_test_vectors.md 2.6 -/

theorem test_decode_p_reference :
    decodeTableWord 40 0b00_11011110101011011011111011101111 = some .idle ∧
    decodeTableWord 40 0b01_00000000000000001111111111111111 = some (.push 0xFFFF) ∧
    decodeTableWord 40 0b10_00010010001101000101011001111000 = some .ovf ∧
    decodeTableWord 40 0b11_11111111111111111111111111111111 = some (.pushovf 0xFFFFFFFF) := by decide

theorem test_decode_p_T :
    (decode cfgT (.p 0b00_0000)).toOption = some .idle ∧ (decode cfgT (.p 0b01_1001)).toOption = some (.push 9) ∧
    (decode cfgT (.p 0b10_0000)).toOption = some .ovf ∧
    (decode cfgT (.p 0b11_0110)).toOption = some (.pushovf 6) ∧ (decode cfgT (.p 0b100_0000)).toOption = none := by
  decide

theorem test_decode_c_control :
    decodeC 0b000_1111_1_111111111111111111111111#32 = .nop ∧
    decodeC 0b001_1101_0_101111001101111011110000#32 = .start ∧
    decodeC 0b010_1111_1_111111111111111111111111#32 = .stop ∧
    decodeC 0b110_0000_0_000000000000000000001001#32 = .rdstat .flags ∧
    decodeC 0b110_1111_1_111111111111111111111111#32 = .rdstat .sr7 ∧
    decodeC 0b111_0000_0_000000000000000000000000#32 = .rsvd7 := by decide

theorem test_decode_c_drain :
    decodeC 0b011_0000_0_000000000000000000000000#32 = .take ∧
    decodeC 0b100_1111_0_000000000000000000010000#32 = .read .b0 16 ∧
    decodeC 0b100_0000_1_000000000000001111111111#32 = .read .b1 1023 ∧
    decodeC 0b100_0000_0_111111111111111111111111#32 = .read .b0 0xFFFFFF ∧
    decodeC 0b101_0000_0_000000000000000000000000#32 = .done := by decide

/-! ## Configurations (95_test_vectors.md 2.7) -/

theorem test_configOk :
    Config.reference.ok = true ∧ cfgT.ok = true ∧ cfgBad.ok = false ∧ { Config.reference with OSR := 16 }.ok = false ∧
    { Config.reference with Q := 1 }.ok = false ∧ { Config.reference with L := 16777216 }.ok = true ∧
    { Config.reference with L := 16777217 }.ok = false ∧ { Config.reference with B := 33 }.ok = false ∧
    { Config.reference with CNTW := 0 }.ok = false := by decide

theorem test_derivedWidths :
    (Config.reference.G, Config.reference.AW, Config.reference.GW, Config.reference.CW) = (8, 9, 3, 10) ∧
    (cfgT.G, cfgT.AW, cfgT.GW, cfgT.CW) = (2, 4, 1, 1) := by decide

/-! ## The P port (95_test_vectors.md 2.1 to 2.3) -/

theorem test_idle : after .idle (capturing cfgT) id = some (capturing cfgT) := by decide

theorem test_push_accumulates :
    after (.push 0xFFFF) { capturing Config.reference with acc := 100, wcnt := 3 } (fun t => (t.acc, t.wcnt)) =
      some (116, 4) := by decide

theorem test_push_clamps :
    after (.push 0xFFFFFFFF) { capturing Config.reference with acc := 224, wcnt := 7, cursor := 5 }
      (fun t => (t.buf.get .b0 5, t.cursor, t.flagsP, t.acc, t.wcnt)) = some (some 255, 6, 0x08, 0, 0) := by decide

theorem test_pushovf :
    after (.pushovf 1) { capturing Config.reference with ovfCnt := 2 }
      (fun t => (t.acc, t.wcnt, t.ovfCnt, t.flagsP)) = some (1, 1, 3, 0x01) := by decide

/-- Program P2, step 15: the third swap finds the queue full. -/
theorem test_pushovf_swap_drops :
    after (.pushovf 3) { late with active := .b0, missCnt := 1, lostCnt := 0, flagsP := 0x02, acc := 4, wcnt := 1,
                                   cursor := 1 }
      (fun t => (t.q, t.missCnt, t.lostCnt, t.flagsP)) = some ([.b0, .b1], 2, 1, 0x07) := by decide

theorem test_ovf_saturates : after .ovf { capturing cfgT with ovfCnt := 15 } (fun t => t.ovfCnt) = some 15 := by decide

theorem test_ovf_ignored : after .ovf { capturing cfgT with runP := false } (fun t => t.ovfCnt) = some 0 := by decide

/-- Program P5, step 11: the ABORT policy. -/
theorem test_push_aborts :
    after (.push 0) { aborted with q := [.b0], flagsP := 0, missCnt := 0, active := .b1, cursor := 1, acc := 4,
                                   wcnt := 1 } id = some aborted := by decide

/-- A truncating configuration stores the low bits of a count of 17 (95_test_vectors.md 2.1, narrow destination). -/
theorem test_reduce_truncates :
    reduceValue { cfgT with W := 8, OSR := 32, B := 4, reduce := .trunc } 17 = 1 := by decide

/-! ## The C port (95_test_vectors.md 2.4, 2.5) -/

theorem test_nop : after .nop halted id = some halted := by decide

theorem test_start : after .start (State.initial cfgT) (fun t => (t.runReq, t.proto)) = some (true, false) := by decide

theorem test_start_rejected :
    after .start (State.initial cfgBad) (fun t => (t.runReq, t.proto)) = some (false, true) := by decide

theorem test_stop :
    after .stop (capturing cfgT) (fun t => (t.runReq, t.stopReq, t.runP, t.proto)) = some (false, true, true, false) := by
  decide

theorem test_take :
    after .take (filled .pending) (fun t => (t.sch, t.proto)) = some (.draining, false) ∧
    after .take (filled .idle) (fun t => (t.sch, t.proto)) = some (.idle, true) := by decide

theorem test_read_exact : after (.read .b0 1) (filled .draining) (fun t => t.rdata) = some 7 := by decide

theorem test_read_unspecified :
    memRead (filled .draining) .b0 2 = none ∧ memRead (filled .draining) .b1 0 = none ∧
      memRead halted .b1 1 = none ∧ memRead halted .b1 0 = some 4 := by decide

theorem test_done :
    after .done (filled .draining) (fun t => (t.sch, t.ackPend, t.q)) = some (.idle, true, [.b0]) ∧
    after .done (filled .pending) (fun t => (t.ackPend, t.proto)) = some (false, true) := by decide

theorem test_rdstat_status :
    after (.rdstat .status) { filled .draining with slot := .b1 } (fun t => t.rdata) = some 0x0E ∧
    after (.rdstat .status) halted (fun t => t.rdata) = some 0x13 := by decide

theorem test_rdstat_others :
    after (.rdstat .flags) { State.initial cfgT with flagsC := 0x1F, proto := true } (fun t => t.rdata) = some 0x5F ∧
    after (.rdstat .pos) { State.initial Config.reference with active := .b1, cursor := 5 } (fun t => t.rdata) =
      some 0x80000005 ∧
    after (.rdstat .missCnt) { State.initial cfgT with missCnt := 65535 } (fun t => t.rdata) = some 0xFFFF := by decide

theorem test_rsvd7 : after .rsvd7 halted id = some { halted with proto := true } := by decide

/-! ## SYNC, RESET, fetching -/

theorem test_runsync : afterSync .runsync { capturing cfgT with runP := false } (fun t => t.runP) = some true := by decide

theorem test_deliver :
    afterSync .deliver { State.initial cfgT with q := [.b1, .b0] } (fun t => (t.slot, t.sch, t.q)) =
      some (.b1, .pending, [.b1, .b0]) ∧
    afterSync .deliver { State.initial cfgT with q := [.b1], ackPend := true } (fun t => t.sch) = some .idle := by decide

theorem test_retire : afterSync .retire { queued with ackPend := true } (fun t => (t.q, t.ackPend)) =
    some ([.b1], false) := by decide

theorem test_flagsync :
    afterSync (.flagsync 0x02) late (fun t => t.flagsC) = some 0x02 ∧
    afterSync (.flagsync 0x06) late (fun t => t.flagsC) = some 0x06 := by decide

theorem test_quiesce :
    afterSync .quiesce { State.initial cfgT with stopReq := true } (fun t => t.sch) = some .stopped ∧
    afterSync .quiesce { queued with stopReq := true } (fun t => t.sch) = some .idle := by decide

/-- R178 asks nothing of `run_req`: QUIESCE may come before RUNSYNC, which stays enabled in STOPPED (assumption 11). -/
theorem test_quiesce_before_runsync :
    afterSync .quiesce { abortedStopped with sch := .idle } id = some abortedStopped ∧
    afterSync .runsync abortedStopped (fun t => (t.runP, t.cap, t.sch)) = some (false, false, .stopped) := by decide

/-- R264 as it stands, under the reading `frozen`: a STOP and a turn for RUNSYNC change nothing in STOPPED. -/
theorem test_stopped_frozen :
    let s := frozen { abortedStopped with stopReq := false }
    after .stop s id = some s ∧ afterSync .runsync s id = some s := by decide

theorem test_reset :
    nextOf (step (give [.rst] { halted with proto := true })) = some (State.initial cfgT) := by decide

theorem test_withFetchWord :
    nextOf (step (State.reset.withFetchWord 32 0x20000000)) = some { State.reset with runReq := true } := by decide

/-! ## Witnesses: states for the invariants -/

theorem mem_of_cellGet {l : List Cell} {k v : Nat} (h : cellGet l k = some v) : (k, v) ∈ l := by
  induction l with
  | nil => cases h
  | cons c rest ih =>
    obtain ⟨a, u⟩ := c
    simp only [cellGet] at h
    split at h
    · rename_i hk
      injection h with h
      rw [hk, h]
      exact List.mem_cons_self ..
    · exact List.mem_cons_of_mem _ (ih h)

/-- Every stored sample fits, when every listed cell does. -/
theorem samplesFit_of_cells {s : State}
    (h : ∀ i, i = BufIdx.b0 ∨ i = .b1 → ∀ c ∈ s.buf.cells i, c.1 < s.cfg.L ∧ c.2 ≤ s.cfg.SMAX) :
    ∀ i o v, s.buf.get i o = some v → o < s.cfg.L ∧ v ≤ s.cfg.SMAX :=
  fun i o v hv => h i (by cases i <;> simp) (o, v) (mem_of_cellGet hv)

theorem inv_capturing : StateInv (capturing cfgT) where
  requestConfigured := by decide
  captureConfigured := by decide
  accBound := by decide
  wcntRange := by decide
  cursorRange := by decide
  queueBound := by decide
  ovfBound := by decide
  missBound := by decide
  lostBound := by decide
  memWf := by decide
  samplesFit := samplesFit_of_cells (by rintro i (rfl | rfl) <;> decide)
  filledBelow := by unfold written; decide
  queuedFilled := by unfold written; decide
  ackHeld := by decide
  offeredIsHead := by decide
  stoppedFinal := by decide
  viewLags := by unfold flagsLe; decide
  stopHeld := by decide

theorem inv_filled_pending : StateInv (filled .pending) :=
  { inv_capturing with
    queueBound := by decide
    memWf := by decide
    samplesFit := samplesFit_of_cells (by rintro i (rfl | rfl) <;> decide)
    filledBelow := by unfold written; decide
    queuedFilled := by unfold written; decide
    ackHeld := by decide
    offeredIsHead := by decide
    stoppedFinal := by decide
    viewLags := by unfold flagsLe; decide }

theorem inv_filled_draining : StateInv (filled .draining) :=
  { inv_filled_pending with
    ackHeld := by decide
    offeredIsHead := by decide
    stoppedFinal := by decide }

theorem inv_halted : StateInv halted where
  requestConfigured := by decide
  captureConfigured := by decide
  accBound := by decide
  wcntRange := by decide
  cursorRange := by decide
  queueBound := by decide
  ovfBound := by decide
  missBound := by decide
  lostBound := by decide
  memWf := by decide
  samplesFit := samplesFit_of_cells (by rintro i (rfl | rfl) <;> decide)
  filledBelow := by unfold written; decide
  queuedFilled := by unfold written; decide
  ackHeld := by decide
  offeredIsHead := by decide
  stoppedFinal := by decide
  viewLags := by unfold flagsLe; decide
  stopHeld := by decide

theorem inv_abortedStopped : StateInv abortedStopped where
  requestConfigured := by decide
  captureConfigured := by decide
  accBound := by decide
  wcntRange := by decide
  cursorRange := by decide
  queueBound := by decide
  ovfBound := by decide
  missBound := by decide
  lostBound := by decide
  memWf := by decide
  samplesFit := samplesFit_of_cells (by rintro i (rfl | rfl) <;> decide)
  filledBelow := by unfold written; decide
  queuedFilled := by unfold written; decide
  ackHeld := by decide
  offeredIsHead := by decide
  stoppedFinal := by decide
  viewLags := by unfold flagsLe; decide
  stopHeld := by decide

theorem inv_late : StateInv late :=
  { inv_capturing with
    queueBound := by decide
    missBound := by decide
    lostBound := by decide
    memWf := by decide
    samplesFit := samplesFit_of_cells (by rintro i (rfl | rfl) <;> decide)
    filledBelow := by unfold written; decide
    queuedFilled := by unfold written; decide
    ackHeld := by decide
    offeredIsHead := by decide
    stoppedFinal := by decide
    viewLags := by unfold flagsLe; decide }

theorem flagsAgree_late : FlagsAgree late where
  ovf := by decide
  miss := by decide
  lost := by decide
  lostLeMiss := by decide
  abort := by decide
  reduced := by decide

/-- An invariant does not look at what is pending. -/
theorem StateInv_give {s : State} (h : StateInv s) (l : List Input) : StateInv (give l s) := { h with }

/-- Nor does it look at the reading of STOPPED. -/
theorem StateInv_frozen {s : State} (h : StateInv s) : StateInv (frozen s) := { h with }

/-- An outcome is a next state. -/
abbrev Goes (s : State) : Prop := ∃ t, step s = .next t

/-! ## Witnesses: encoding and steps -/

theorem witness_PWordsDecodeByTheirControlBits : 15 < 2 ^ cfgT.W := by decide

theorem witness_EveryPortWordDecodes :
    63 < 2 ^ (cfgT.W + 2) ∧ 2 ^ (cfgT.W + 2) ≤ 64 := by decide

theorem witness_EncodedInstructionsDecodeBack :
    wellFormed cfgT (.push 15) = true ∧ wellFormed cfgT (.read .b1 0xFFFFFF) = true := by decide

theorem witness_StepRunsTheDecodedPortWord :
    (give [.src 0x1F] (capturing cfgT)).inputs = .src 0x1F :: [] ∧ decode cfgT (.p 0x1F) = .ok (.push 15) ∧
    (give [.host 0x60000000] (filled .pending)).inputs = .host 0x60000000 :: [] ∧
    decode cfgT (.c 0x60000000) = .ok .take := ⟨rfl, rfl, rfl, rfl⟩

theorem witness_RunsyncCarriesTheRunRequest :
    (give [.sync .runsync] (capturing cfgT)).inputs = .sync .runsync :: [] := rfl

theorem witness_DeliverOffersTheQueueHead :
    (give [.sync .deliver] queued).inputs = .sync .deliver :: [] ∧ queued.q = .b0 :: [.b1] ∧ queued.sch = .idle ∧
      queued.ackPend = false := by decide

theorem witness_RetireRemovesTheFinishedRequest :
    let s : State := give [.sync .retire] { queued with ackPend := true }
    s.inputs = .sync .retire :: [] ∧ s.q = .b0 :: [.b1] ∧ s.ackPend = true := by decide

/-- A bit is missing; a proposed set of missing bits, one of two and both. -/
theorem witness_FlagsyncCopiesMissingFlags :
    (give [.sync (.flagsync 0x02)] late).inputs = .sync (.flagsync 0x02) :: [] ∧
    late.flagsP &&& ~~~late.flagsC ≠ 0#5 ∧
    ((0x02 : BitVec 5) ≠ 0#5 ∧ (0x02 : BitVec 5) &&& ~~~(late.flagsP &&& ~~~late.flagsC) = 0#5) ∧
    ((0x06 : BitVec 5) ≠ 0#5 ∧ (0x06 : BitVec 5) &&& ~~~(late.flagsP &&& ~~~late.flagsC) = 0#5) := by decide

/-- After a STOP; after an abort. -/
theorem witness_QuiesceEntersStopped :
    let s : State := give [.sync .quiesce] { State.initial cfgT with stopReq := true }
    let a : State := give [.sync .quiesce] { aborted with q := [], flagsC := 0x12 }
    (s.inputs = .sync .quiesce :: [] ∧ s.stopReq = true ∧ s.cap = false ∧ s.q = [] ∧ s.sch = .idle ∧
      s.flagsC = s.flagsP) ∧
    (a.inputs = .sync .quiesce :: [] ∧ a.abortP = true ∧ a.cap = false ∧ a.q = [] ∧ a.sch = .idle ∧
      a.flagsC = a.flagsP) := by decide

/-- Each internal step disabled, RUNSYNC for each of its two reasons and DELIVER for each of its three. -/
theorem witness_DisabledInternalStepsChangeNothing :
    (give [.sync .runsync] halted).inputs = .sync .runsync :: [] ∧ halted.runP = halted.runReq ∧
    ((frozen abortedStopped).sch = .stopped ∧ (frozen abortedStopped).cfg.stoppedReading = .frozen) ∧
    (capturing cfgT).q = [] ∧ (filled .pending).sch ≠ .idle ∧ { queued with ackPend := true }.ackPend = true ∧
    queued.ackPend = false ∧ halted.flagsC = halted.flagsP ∧
    (let u : State := { queued with stopReq := true };
      ¬((u.stopReq = true ∨ u.abortP = true) ∧ u.cap = false ∧ u.q = [] ∧ u.sch = .idle ∧ u.flagsC = u.flagsP)) := by
  decide

theorem witness_ResetSetsEveryVariable : (give [.rst] halted).inputs = .rst :: [] := rfl

theorem witness_QuietEnvironmentRunsAnEnabledStep :
    (queued.inputs = [] ∧ ∃ k, syncEnabled k queued = true) ∧
    (halted.inputs = [] ∧ ∀ k, syncEnabled k halted = false) :=
  ⟨⟨rfl, .deliver, by decide⟩, rfl, fun k => by cases k <;> rfl⟩

/-! ## Witnesses: the P port -/

theorem witness_ProducerPortIsIgnoredUnlessCapturing : halted.cap = false ∧ aborted.cap = false := by decide

/-- Not capturing; inside a group; a group completed inside the buffer; a swap with an empty, a non-empty and a full
queue. -/
theorem witness_PushAccumulatesStoresAndSwaps :
    (halted.cap = false ∧ halted.cfg.ok = true) ∧
    ((capturing cfgT).cap = true ∧ cfgT.ok = true ∧ (capturing cfgT).wcnt < cfgT.G - 1) ∧
    ({ capturing cfgT with wcnt := 1 }.cap = true ∧ ¬1 < cfgT.G - 1 ∧ 0 < cfgT.L - 1) ∧
    ({ capturing cfgT with wcnt := 1, cursor := 1 }.q = [] ∧ ¬1 < cfgT.L - 1) ∧
    ({ filled .idle with wcnt := 1, cursor := 1 }.q ≠ [] ∧ (filled .idle).cap = true) ∧
    ({ late with wcnt := 1, cursor := 1 }.cap = true ∧ ¬late.q.length < cfgT.Q) := by decide

theorem witness_OvfCountsAReport : (capturing cfgT).cfg.ok = true ∧ (capturing cfgT).cap = true := by decide

theorem witness_PushovfIsBothOperations : (capturing cfgT).cfg.ok = true ∧ halted.cfg.ok = true := by decide

theorem witness_FailingConfigurationRefusesObeyedWords :
    (capturing cfgBad).cap = true ∧ (capturing cfgBad).cfg.ok = false := by decide

theorem witness_GroupStoresItsReducedBitCount :
    let s := give (groupLines cfgT [15, 3]) (capturing cfgT)
    s.cap = true ∧ s.cfg.ok = true ∧ s.wcnt = 0 ∧ s.acc = 0 ∧ [15, 3].length = s.cfg.G ∧
      (∀ w ∈ [15, 3], w < 2 ^ s.cfg.W) ∧ s.inputs = groupLines s.cfg [15, 3] ++ [] := by decide

theorem witness_GroupsOfEqualBitCountActAlike :
    let s := capturing cfgT
    s.cap = true ∧ s.cfg.ok = true ∧ s.wcnt = 0 ∧ s.acc = 0 ∧ [15, 3].length = s.cfg.G ∧ [6, 15].length = s.cfg.G ∧
      (∀ w ∈ [15, 3], w < 2 ^ s.cfg.W) ∧ (∀ w ∈ [6, 15], w < 2 ^ s.cfg.W) ∧
      ([15, 3].map (popcount s.cfg.W)).sum = ([6, 15].map (popcount s.cfg.W)).sum := by decide

theorem witness_FillStoresSamplesInOrderAndSwapsOnce :
    let gs := [[15, 3], [15, 15]]
    let s := give (gs.flatMap (groupLines cfgT)) (capturing cfgT)
    s.cap = true ∧ s.cfg.ok = true ∧ s.wcnt = 0 ∧ s.acc = 0 ∧ s.cursor = 0 ∧ s.q = [] ∧ gs.length = s.cfg.L ∧
      (∀ ws ∈ gs, ws.length = s.cfg.G ∧ ∀ w ∈ ws, w < 2 ^ s.cfg.W) ∧
      s.inputs = gs.flatMap (groupLines s.cfg) ++ [] := by decide

/-! ## Witnesses: the C port -/

/-- An exact read at the last offset; a read past the end, of the producer's buffer, of a location never written. -/
theorem witness_ReadReturnsTheStoredSample :
    ((1 : BitVec 24).toNat < (filled .draining).cfg.L ∧
      ¬((filled .draining).cap = true ∧ BufIdx.b0 = (filled .draining).active) ∧
      (filled .draining).buf.get .b0 (1 : BitVec 24).toNat = some 7) ∧
    halted.cfg.L ≤ (2 : BitVec 24).toNat ∧
    ((filled .draining).cap = true ∧ BufIdx.b1 = (filled .draining).active) ∧
    halted.buf.get .b1 (1 : BitVec 24).toNat = none := by decide

theorem witness_ProducerRegistersReadExactlyWhenHalted :
    (halted.cap = false ∧ halted.cursor < 2 ^ 24) ∧
    ({ State.initial { Config.reference with L := 2 ^ 24 } with cursor := 2 ^ 24 - 1 }.cap = false ∧
      (2 ^ 24 - 1 : Nat) < 2 ^ 24) ∧
    (capturing cfgT).cap = true := by decide

theorem witness_RejectedCommandsOnlyRaiseProto :
    ((filled .pending).sch ≠ .idle ∧ (capturing cfgT).runReq = true ∧ { queued with stopReq := true }.stopReq = true ∧
      (State.initial cfgBad).cfg.cfgerr = true) ∧
    queued.sch ≠ .pending ∧ queued.sch ≠ .draining := by decide

theorem witness_ConfigurationErrorRejectsEveryStart :
    (State.initial cfgBad).cfg.ok = false ∧ (step (State.initial cfgBad)) = .next (quietStep (State.initial cfgBad)) :=
  ⟨by decide, rfl⟩

/-! ## Witnesses: whole-machine rules -/

theorem witness_EveryStepKeepsTheInvariants :
    ∃ s, StateInv s ∧ Goes s := ⟨give [.src 0x1F] late, StateInv_give inv_late _, _, rfl⟩

theorem witness_EveryStepKeepsFlagsAndCountersAgreeing :
    ∃ s, StateInv s ∧ FlagsAgree s ∧ Goes s :=
  ⟨give [.src 0x1F] late, StateInv_give inv_late _, { flagsAgree_late with }, _, rfl⟩

theorem witness_EveryStepKeepsRequestsAlternating :
    ∃ s, QueueAlternates s ∧ hasFlag s.flagsP .lost = false ∧ s.q ≠ [] ∧ Goes s :=
  ⟨give [.src 0x1F] (filled .idle), fun _ => rfl, by decide, by decide, _, rfl⟩

theorem witness_EveryStepKeepsOneRequestUntilMiss :
    ∃ s, NoMissOneRequest s ∧ hasFlag s.flagsP .miss = false ∧ s.q ≠ [] ∧ Goes s :=
  ⟨give [.src 0x1F] (filled .idle), fun _ => .inr rfl, by decide, by decide, _, rfl⟩

/-- In PENDING at the first offset and in DRAINING at the last. -/
theorem witness_ReadsOfTheDrainAreExactUntilMiss :
    (StateInv (filled .pending) ∧ NoMissOneRequest (filled .pending) ∧ hasFlag (filled .pending).flagsP .miss = false ∧
      (filled .pending).sch = .pending ∧ (0 : BitVec 24).toNat < (filled .pending).cfg.L) ∧
    (StateInv (filled .draining) ∧ NoMissOneRequest (filled .draining) ∧
      hasFlag (filled .draining).flagsP .miss = false ∧ (filled .draining).sch = .draining ∧
      (1 : BitVec 24).toNat < (filled .draining).cfg.L) :=
  ⟨⟨inv_filled_pending, fun _ => .inr rfl, by decide, rfl, by decide⟩, inv_filled_draining, fun _ => .inr rfl,
    by decide, rfl, by decide⟩

/-- A step of SRC while the buffer is being drained. -/
theorem witness_ReadsOfTheDrainAreExactUntilMiss_step :
    ∃ s, StateInv s ∧ NoMissOneRequest s ∧ hasFlag s.flagsP .miss = false ∧ s.sch = .draining ∧ Goes s ∧ notReset s :=
  ⟨give [.src 0x1F] (filled .draining), StateInv_give inv_filled_draining _, fun _ => .inr rfl, by decide, rfl,
    ⟨_, rfl⟩, by unfold notReset; decide⟩

theorem witness_OnlySrcWritesAccWcntCursorActiveFlagsAndCounters :
    ∃ s, Goes s ∧ notReset s ∧ ∀ w, s.inputs.head? ≠ some (.src w) :=
  ⟨give [.host 0x40000000] (capturing cfgT), ⟨_, rfl⟩, by unfold notReset; decide, fun w h => by cases h⟩

theorem witness_PPortNeverWritesConsumerState :
    ∃ s w, s.inputs.head? = some (.src w) ∧ Goes s := ⟨give [.src 0x3F] (capturing cfgT), 0x3F, rfl, _, rfl⟩

theorem witness_StoresGoOnlyToTheCursor :
    ∃ (s : State) (i : BufIdx) (o : Nat), Goes s ∧ notReset s ∧ ¬(i = s.active ∧ o = s.cursor) :=
  ⟨give [.src 0x1F] { capturing cfgT with wcnt := 1 }, .b0, 1, ⟨_, rfl⟩, by unfold notReset; decide, by decide⟩

theorem witness_FlagsAreClearedOnlyByReset :
    ∃ s, StateInv s ∧ Goes s ∧ notReset s :=
  ⟨give [.src 0x2F] late, StateInv_give inv_late _, ⟨_, rfl⟩, by unfold notReset; decide⟩

/-- TAKE and DONE out of place; each of the five moves: DELIVER, TAKE, DONE, QUIESCE, RESET. -/
theorem witness_SchedulerMovesOnlyAsListed :
    (queued.sch ≠ .pending ∧ queued.sch ≠ .draining) ∧ ∀ s ∈ [give [.sync .deliver] queued, give [.host 0x60000000] (filled .pending),
        give [.host 0xA0000000] (filled .draining), give [.sync .quiesce] { State.initial cfgT with stopReq := true },
        give [.rst] halted],
      (nextOf (step s)).isSome = true ∧ (nextOf (step s)).map (·.sch) ≠ some s.sch := by decide

/-- An append, a removal, a step that leaves the queue alone. -/
theorem witness_QueueIsFirstInFirstOut :
    (nextOf (step (give [.src 0x13] { capturing cfgT with wcnt := 1, cursor := 1 }))).map (·.q) = some [.b0] ∧
    (nextOf (step (give [.sync .retire] { queued with ackPend := true }))).map (·.q) = some [.b1] ∧
    (nextOf (step (give [.host 0] queued))).map (·.q) = some [.b0, .b1] := by decide

theorem witness_RequestsAreServedOnceInQueueOrder :
    let l := [.sync .deliver, line cfgT .take, line cfgT .done, .sync .retire]
    let s := give (l ++ l) queued
    s.sch = .idle ∧ s.ackPend = false ∧
    s.inputs = (s.q.flatMap fun _ => [.sync .deliver, line s.cfg .take, line s.cfg .done, .sync .retire]) ++ [] ∧
    s.q[0]? = some .b0 ∧ s.q[1]? = some .b1 := by decide

theorem witness_StoppedIsTerminal :
    ∃ s, StateInv s ∧ s.sch = .stopped ∧ Goes s ∧ notReset s :=
  ⟨give [.src 0x1F] halted, StateInv_give inv_halted _, rfl, ⟨_, rfl⟩, by unfold notReset; decide⟩

/-- After a STOP; after an abort, RUNSYNC still enabled; after an abort and a STOP that the producer has seen; after an abort
under the reading `frozen`. -/
theorem witness_StoppedRunIsFinal :
    (∃ s, StateInv s ∧ s.sch = .stopped ∧ Goes s ∧ notReset s ∧ s.abortP = false) ∧
    (∃ s, StateInv s ∧ s.sch = .stopped ∧ Goes s ∧ notReset s ∧ syncEnabled .runsync s = true) ∧
    (∃ s, StateInv s ∧ s.sch = .stopped ∧ Goes s ∧ notReset s ∧ s.abortP = true ∧ s.stopReq = true ∧ s.runP = false) ∧
    ∃ s, StateInv s ∧ s.sch = .stopped ∧ Goes s ∧ notReset s ∧ s.cfg.stoppedReading = .frozen ∧ s.runP ≠ s.runReq :=
  ⟨⟨give [.host 0x20000000] halted, StateInv_give inv_halted _, rfl, ⟨_, rfl⟩, by unfold notReset; decide, by decide⟩,
    ⟨give [.sync .runsync] abortedStopped, StateInv_give inv_abortedStopped _, rfl, ⟨_, rfl⟩,
      by unfold notReset; decide, by decide⟩,
    ⟨give [.host 0x20000000] { abortedStopped with runP := false },
      { inv_abortedStopped with captureConfigured := by decide, stoppedFinal := by decide }, rfl, ⟨_, rfl⟩,
      by unfold notReset; decide, by decide, rfl, rfl⟩,
    give [.sync .runsync] (frozen abortedStopped), StateInv_give (StateInv_frozen inv_abortedStopped) _, rfl, ⟨_, rfl⟩,
    by unfold notReset; decide, rfl, by decide⟩

theorem witness_ResidualSamplesReadExactly :
    StateInv halted ∧ halted.sch = .stopped ∧ (0 : BitVec 24).toNat < halted.cursor := ⟨inv_halted, rfl, by decide⟩

theorem witness_AbortEndsCaptureUntilReset :
    ∃ s, s.abortP = true ∧ Goes s ∧ notReset s :=
  ⟨give [.src 0x3F] aborted, by decide, ⟨_, rfl⟩, by unfold notReset; decide⟩

/-- After a START; after a STOP. -/
theorem witness_OneCapturePerReset :
    ((capturing cfgT).runReq = true ∧ Goes (give [.host 0x40000000] (capturing cfgT)) ∧
      notReset (give [.host 0x40000000] (capturing cfgT))) ∧
    halted.stopReq = true ∧ Goes (give [.host 0x20000000] halted) :=
  ⟨⟨rfl, ⟨_, rfl⟩, by unfold notReset; decide⟩, rfl, _, rfl⟩

/-- An endless run under weak fairness and without RESET, with the property `P` and the invariants at some moment. -/
abbrev FairlyFrom (P : State → Prop) : Prop :=
  ∃ σ α n, EndlessRun σ α ∧ WeaklyFair σ α ∧ StateInv (σ n) ∧ (∀ m, n ≤ m → α m ≠ .rst) ∧ P (σ n)

/-- One step of any agent, then SRC pushing for ever in a state that its words leave as it is. -/
theorem fairlyFrom {P : State → Prop} (s : State) {t : State} (k : SyncStep) (w : Nat) (hi : StateInv s) (hp : P s)
    (h0 : step (withInputs [.sync k] s) = .next t) (h1 : step (withInputs [.src w] t) = .next t)
    (quiet : ∀ k, syncEnabled k t = false) : FairlyFrom P := by
  refine ⟨fun n => if n = 0 then s else t, fun n => if n = 0 then .sync k else .src w, 0, fun n => ?_, fun j n h => ?_,
    hi, fun m _ => ?_, hp⟩
  · cases n with
    | zero => exact h0
    | succ n => exact h1
  · have := h (n + 1) (Nat.le_succ n)
    exact absurd (this : syncEnabled j t = true) (by simp [quiet])
  · dsimp only
    split <;> simp

/-- A capture with a filled buffer and an overflow reported as often as can be counted, so that another leaves the state
as it is. -/
def overrun (sch : Sched) : State := { filled sch with flagsP := 0x09, flagsC := 0x09, ovfCnt := 15 }

theorem inv_overrun : StateInv (overrun .idle) :=
  { inv_filled_pending with
    ovfBound := by decide
    memWf := by decide
    samplesFit := samplesFit_of_cells (by rintro i (rfl | rfl) <;> decide)
    filledBelow := by unfold written; decide
    queuedFilled := by unfold written; decide
    ackHeld := by decide
    offeredIsHead := by decide
    stoppedFinal := by decide
    viewLags := by unfold flagsLe; decide }

/-- A quiet environment; then, clause by clause, endless runs in which SRC never stops: an acknowledge pending, a request to
offer, a flag to copy, a START, a STOP, and STOPPED to be entered. -/
theorem witness_EnabledInternalStepsAreEventuallyTaken :
    (StateInv late ∧ late.inputs = []) ∧
    FairlyFrom (fun s => s.ackPend = true) ∧
    FairlyFrom (fun s => s.q = .b0 :: [] ∧ s.sch = .idle ∧ s.ackPend = false) ∧
    FairlyFrom (fun s => hasFlag s.flagsP .ovf = true ∧ hasFlag s.flagsC .ovf = false) ∧
    FairlyFrom (fun s => s.runReq = true ∧ s.runP = false) ∧
    FairlyFrom (fun s => s.stopReq = true ∧ s.cap = true) ∧
    FairlyFrom (fun s => s.stopReq = true ∧ s.cap = false ∧ s.q = [] ∧ s.sch = .idle) := by
  have inv := inv_overrun
  have quiet : ∀ t : State, (∀ k, syncEnabled k t = false) ↔ syncEnabled .runsync t = false ∧
      syncEnabled .deliver t = false ∧ syncEnabled .retire t = false ∧ syncEnabled (.flagsync 0) t = false ∧
      syncEnabled .quiesce t = false :=
    fun t => ⟨fun h => ⟨h _, h _, h _, h _, h _⟩, fun ⟨a, b, c, d, e⟩ k => by
      cases k
      · exact a
      · exact b
      · exact c
      · exact d
      · exact e⟩
  refine ⟨⟨inv_late, rfl⟩,
    fairlyFrom { overrun .idle with ackPend := true } .retire 0x20
      { inv with
        ackHeld := by decide
        offeredIsHead := by decide
        stoppedFinal := by decide }
      (by decide) rfl rfl ((quiet _).2 (by decide)),
    fairlyFrom (overrun .idle) .deliver 0x20 inv (by decide) rfl rfl ((quiet _).2 (by decide)),
    fairlyFrom { overrun .idle with q := [], flagsC := 0 } (.flagsync 0) 0x20
      { inv with
        queueBound := by decide
        queuedFilled := fun i h => by cases h
        ackHeld := by decide
        offeredIsHead := by decide
        stoppedFinal := by decide
        viewLags := by unfold flagsLe; decide }
      (by decide) rfl rfl ((quiet _).2 (by decide)),
    fairlyFrom { overrun .idle with q := [], runP := false } .runsync 0x20
      { inv with
        captureConfigured := by decide
        queueBound := by decide
        queuedFilled := fun i h => by cases h
        ackHeld := by decide
        offeredIsHead := by decide
        stoppedFinal := by decide }
      (by decide) rfl rfl ((quiet _).2 (by decide)),
    fairlyFrom { filled .pending with runReq := false, stopReq := true, flagsC := 0x08 } .runsync 0x1F
      { inv_filled_pending with
        requestConfigured := by decide
        stoppedFinal := by decide
        stopHeld := by decide
        viewLags := by unfold flagsLe; decide }
      (by decide) rfl rfl ((quiet _).2 (by decide)),
    fairlyFrom { halted with sch := .idle } .quiesce 0x1F
      { inv_halted with
        ackHeld := by decide
        offeredIsHead := by decide
        stoppedFinal := by decide }
      (by decide) rfl rfl ((quiet _).2 (by decide))⟩

theorem witness_NoStepIsRefused :
    StateInv (give [.src 0x3F] late) ∧ ∀ w, (give [.src 0x3F] late).inputs.head? = some (.src w) → w < 2 ^ (cfgT.W + 2) :=
  ⟨StateInv_give inv_late _, fun w h => by injection h with h; injection h with h; subst h; decide⟩

theorem witness_ReachableStatesMeetTheInvariants : Reachable (give [] { State.initial cfgT with runReq := true }) :=
  ⟨cfgT, [.host 0x20000000], 0, 1, rfl⟩

theorem witness_CanonicalMemoriesAreTheirContents :
    ∃ m m' : Memory, m.wf ∧ m'.wf ∧ ∀ i o, m.get i o = m'.get i o :=
  ⟨late.buf, late.buf, by decide, by decide, fun _ _ => rfl⟩

end Sys2Proof.Tests
end

section
/-!
The scope (00_scope.md): what a configuration must satisfy.
-/

namespace Sys2Proof

/-- Settles O34: `Config.ok` tests the terms of R9 one after another, so the test read as a proposition, conjunct for
conjunct, is R9's list; the two sides differ only in how the conjunction is bracketed. -/
theorem configOkIsItsSevenTerms : Obligations.ConfigOkIsItsSevenTerms := by
  unfold Obligations.ConfigOkIsItsSevenTerms
  intro cfg
  simp only [Config.ok, Bool.and_eq_true, decide_eq_true_eq, and_assoc]

end Sys2Proof
end

section
/-!
The state (10_state.md): the outputs it drives (R42), and who writes its producer-domain variables (R27).
-/

namespace Sys2Proof.Machine

/-- The flags behind `c_fault` are the bits of the mask `10111`: all five but `RED` (R42). -/
theorem anyFault_iff (v : BitVec 5) :
    (hasFlag v .ovf || hasFlag v .miss || hasFlag v .lost || hasFlag v .abt) = true ↔ v &&& 0b10111#5 ≠ 0#5 := by
  revert v
  decide

theorem cFault_iff (s : State) :
    cFault s = true ↔ s.flagsC &&& 0b10111#5 ≠ 0#5 ∨ s.cfg.cfgerr = true ∨ s.proto = true := by
  rw [← anyFault_iff, cFault, Bool.or_eq_true, Bool.or_eq_true, or_assoc]

/-- Settles O36: each output is by definition the function of the state that R42 gives it, except that `c_fault` reads its
flags one by one, which `cFault_iff` turns into one mask. -/
theorem outputsFollowTheState : Obligations.OutputsFollowTheState := by
  unfold Obligations.OutputsFollowTheState
  intro s
  exact ⟨decide_eq_true_iff, rfl, rfl, decide_eq_true_iff, cFault_iff s, rfl⟩

/-- The model's own fields are none of the producer's variables, so taking the pending step off and counting a draw do not
matter. -/
theorem ProducerSame.of_model {s u : State} {l : List Input} (h : ProducerSame (withInputs l s) u) (d : Nat) :
    ProducerSame s { u with draws := d } :=
  ⟨h.cfg, h.acc, h.wcnt, h.cursor, h.active, h.flagsP, h.ovfCnt, h.missCnt, h.lostCnt, h.buf⟩

/-- Of the producer's variables an internal step writes only `run_p` (RUNSYNC) and `q` (RETIRE). -/
theorem syncEffect_producerSame (k : SyncStep) (s : State) : ProducerSame s (syncEffect k s) := by
  cases k <;> constructor <;> rfl

/-- Only the transitions of SRC and RST write the variables of R27. -/
theorem Move.producerSame {a : Agent} {s u : State} (h : Move a s u) (hsrc : a ≠ .src) (hrst : a ≠ .rst) :
    ProducerSame s u := by
  cases h with
  | accept | overflow | both => exact absurd rfl hsrc
  | reset => exact absurd rfl hrst
  | internal k => exact syncEffect_producerSame k s
  | stay | reject | start | stop | take | done | rdata => constructor <;> rfl

/-- The agent that moves is SRC only when a P word is pending first. -/
theorem nextAgent_ne_src {s : State} (h : ∀ w, s.inputs.head? ≠ some (.src w)) : nextAgent s ≠ .src := by
  unfold nextAgent
  split <;> simp_all

/-- Settles O43: the step is a `Move` of an agent that is neither SRC nor RST, and such a move keeps the variables. -/
theorem onlySrcWritesAccWcntCursorActiveFlagsAndCounters :
    Obligations.OnlySrcWritesAccWcntCursorActiveFlagsAndCounters := by
  unfold Obligations.OnlySrcWritesAccWcntCursorActiveFlagsAndCounters
  intro s t hstep hrst hsrc
  obtain ⟨u, d, hmove, rfl⟩ := step_moves hstep
  exact (hmove.producerSame (nextAgent_ne_src hsrc) (nextAgent_ne_rst hrst)).of_model d

end Sys2Proof.Machine
end

section
/-!
The buffer memory (20_memory.md): what a READ returns (R66), and a whole fill of the active buffer (R77).
-/

namespace Sys2Proof.Machine

/-- Settles O27: a READ answers what `memRead` finds, and where that is nothing a drawn sample, which fits `B` bits. -/
theorem readReturnsTheStoredSample : Obligations.ReadReturnsTheStoredSample := by
  unfold Obligations.ReadReturnsTheStoredSample
  intro s i off
  constructor
  · intro v hoff howned hstored
    simp [exec, execRead, memRead_exact hoff howned hstored, setRdata]
  · intro hunspecified
    refine ⟨anySample s, s.draws + 1, anySample_lt s, ?_⟩
    simp [exec, execRead, memRead_unspecified hunspecified, drawRdata]

/-! ## One group of words -/

/-- The bounds of R9 that a fill rests on. -/
theorem bounds_of_ok {cfg : Config} (h : cfg.ok = true) : 0 < cfg.G ∧ 0 < cfg.L ∧ 0 < cfg.Q := by
  obtain ⟨hW, hOSR, -, ⟨hL, -⟩, -, hQ, -⟩ := (configOkIsItsSevenTerms cfg).1 h
  exact ⟨Nat.div_pos hOSR hW, hL, by omega⟩

/-- The P word of a PUSH decodes back to it (R81, R82). -/
theorem decode_encode_push (cfg : Config) {w : Nat} (hw : w < 2 ^ cfg.W) :
    decode cfg (encode cfg (.push w)) = .ok (.push w) := by
  rw [encode, decode, decodeP, if_pos (packP_lt cfg false true hw), rawOvf_packP cfg false true hw,
    rawValid_packP cfg false true hw, rawWord_packP cfg false true hw, selectP]

/-- What a completed group leaves depends neither on how far `acc` and `wcnt` had come nor on what is pending. -/
theorem completeGroup_of_partial (n a c : Nat) (l : List Input) (s : State) :
    completeGroup n { s with acc := a, wcnt := c, inputs := l } = withInputs l (completeGroup n s) := by
  by_cases hc : s.cursor < s.cfg.L - 1
  · rw [completeGroup_stores hc, completeGroup_stores (s := { s with acc := a, wcnt := c, inputs := l }) hc]
    rfl
  · rw [completeGroup_swaps hc, completeGroup_swaps (s := { s with acc := a, wcnt := c, inputs := l }) hc]
    rfl

section pushLine

variable {s : State} {w : Nat} {rest : List Input}
  (hcap : s.cap = true) (hok : s.cfg.ok = true) (hw : w < 2 ^ s.cfg.W) (hin : s.inputs = line s.cfg (.push w) :: rest)
include hcap hok hw hin

/-- The step of a pending PUSH line that is obeyed. -/
theorem step_pushLine : step s = .next (acceptWord w (withInputs rest s)) := by
  have hdecode := decode_encode_push s.cfg hw
  simp only [line, encode, portInput] at hin hdecode
  simp [step, hin, runWord, hdecode, exec, execPush, whenCapturing, hcap, hok]

theorem step_pushLine_within (hwithin : s.wcnt < s.cfg.G - 1) :
    step s = .next { s with acc := s.acc + popcount s.cfg.W w, wcnt := s.wcnt + 1, inputs := rest } := by
  rw [step_pushLine hcap hok hw hin, acceptWord_within (s := withInputs rest s) hwithin]
  rfl

theorem step_pushLine_completes (hlast : ¬s.wcnt < s.cfg.G - 1) :
    step s = .next (withInputs rest (completeGroup (s.acc + popcount s.cfg.W w) s)) := by
  rw [step_pushLine hcap hok hw hin, acceptWord_completes (s := withInputs rest s) hlast]
  exact congrArg _ (completeGroup_of_partial _ s.acc s.wcnt rest s)

end pushLine

/-- The words that are left of a group complete it, with the count of the words before added to theirs (R102, R103). -/
theorem run_groupLines {ws : List Nat} {rest : List Input} {s : State} (hcap : s.cap = true) (hok : s.cfg.ok = true)
    (hopen : s.wcnt < s.cfg.G) (hlen : s.wcnt + ws.length = s.cfg.G) (hws : ∀ w ∈ ws, w < 2 ^ s.cfg.W)
    (hin : s.inputs = groupLines s.cfg ws ++ rest) :
    run ws.length s = .next (withInputs rest (completeGroup (s.acc + groupCount s.cfg ws) s)) := by
  induction ws generalizing s with
  | nil => simp only [List.length_nil] at hlen; omega
  | cons w ws ih =>
    obtain ⟨hw, hws⟩ := List.forall_mem_cons.1 hws
    rw [List.length_cons] at hlen ⊢
    by_cases hwithin : s.wcnt < s.cfg.G - 1
    · have hrest := ih (s := { s with
          acc := s.acc + popcount s.cfg.W w
          wcnt := s.wcnt + 1
          inputs := groupLines s.cfg ws ++ rest })
        hcap hok (Nat.add_lt_of_lt_sub hwithin) (by simp only; omega) hws rfl
      rw [run_succ (step_pushLine_within hcap hok hw hin hwithin)]
      refine hrest.trans ?_
      simp [completeGroup_of_partial, withInputs, groupCount, Nat.add_assoc]
    · obtain rfl : ws = [] := List.length_eq_zero_iff.1 (by omega)
      rw [run_succ (step_pushLine_completes hcap hok hw hin hwithin)]
      simp [run, groupCount]

/-! ## A fill of the active buffer -/

/-- A state at a group's start that captures, has no request unretired, and is presented the groups `gs`, with which the
active buffer, filled up to the cursor, becomes full. -/
structure Filling (s : State) (gs : List (List Nat)) (rest : List Input) : Prop where
  cap : s.cap = true
  ok : s.cfg.ok = true
  wcnt : s.wcnt = 0
  acc : s.acc = 0
  q : s.q = []
  fits : s.cursor + gs.length = s.cfg.L
  groups : ∀ ws ∈ gs, ws.length = s.cfg.G ∧ ∀ w ∈ ws, w < 2 ^ s.cfg.W
  inputs : s.inputs = gs.flatMap (groupLines s.cfg) ++ rest

/-- What the groups `gs` leave behind in `t` when from `s` on they fill the active buffer: one swap, no miss, no loss, and
in that buffer their samples in order from the cursor on; below the cursor and in the other buffer all is as before. -/
structure Filled (s : State) (gs : List (List Nat)) (rest : List Input) (t : State) : Prop where
  inputs : t.inputs = rest
  cursor : t.cursor = 0
  active : t.active = s.active.other
  q : t.q = [s.active]
  missCnt : t.missCnt = s.missCnt
  lostCnt : t.lostCnt = s.lostCnt
  stored : ∀ k ws, gs[k]? = some ws → t.buf.get s.active (s.cursor + k) = some (decimate s.cfg ws)
  below : ∀ o, o < s.cursor → t.buf.get s.active o = s.buf.get s.active o
  other : ∀ o, t.buf.get s.active.other o = s.buf.get s.active.other o

/-- What one group of a fill, not its last, leaves behind in `u`: its sample at the cursor, which moves on. -/
structure SampleStored (s : State) (ws : List Nat) (u : State) : Prop where
  cfg : u.cfg = s.cfg
  cursor : u.cursor = s.cursor + 1
  active : u.active = s.active
  missCnt : u.missCnt = s.missCnt
  lostCnt : u.lostCnt = s.lostCnt
  buf : u.buf = s.buf.put s.active s.cursor (decimate s.cfg ws)

/-- `reduce` does not raise `ABT`, so a group that does not swap does not end capture (R104). -/
theorem hasFlag_or_reduceFlags_abt (v : BitVec 5) (cfg : Config) (n : Nat) :
    hasFlag (v ||| reduceFlags cfg n) .abt = hasFlag v .abt := by
  unfold reduceFlags
  split <;> simp [hasFlag, PFlag.bit]

/-- The other buffer is not touched by a store to the active one. -/
theorem Memory.get_put_other_buffer (m : Memory) (i : BufIdx) (o v p : Nat) :
    (m.put i o v).get i.other p = m.get i.other p :=
  m.get_put_other i o v i.other p fun h => BufIdx_other_ne i h.1

section fill

variable {s u t : State} {ws : List Nat} {gs : List (List Nat)} {rest : List Input}

/-- The first group of a fill is run as one. -/
theorem Filling.run_group (h : Filling s (ws :: gs) rest) :
    run s.cfg.G s =
      .next (withInputs (gs.flatMap (groupLines s.cfg) ++ rest) (completeGroup (groupCount s.cfg ws) s)) := by
  obtain ⟨hlen, hws⟩ := h.groups ws List.mem_cons_self
  have hopen : s.wcnt < s.cfg.G := by rw [h.wcnt]; exact (bounds_of_ok h.ok).1
  have hin : s.inputs = groupLines s.cfg ws ++ (gs.flatMap (groupLines s.cfg) ++ rest) := by
    rw [h.inputs, List.flatMap_cons, List.append_assoc]
  have hrun := run_groupLines h.cap h.ok hopen (by rw [h.wcnt]; omega) hws hin
  rwa [hlen, h.acc, Nat.zero_add] at hrun

/-- A group that is not the last of a fill stores its sample at the cursor; the rest of the fill goes on from there. -/
theorem Filling.tail (h : Filling s (ws :: gs) rest) (hmore : gs ≠ []) :
    ∃ u, run s.cfg.G s = .next u ∧ SampleStored s ws u ∧ Filling u gs rest := by
  have hfits : s.cursor + 1 + gs.length = s.cfg.L := by
    have := h.fits
    simp only [List.length_cons] at this
    omega
  have hwithin : s.cursor < s.cfg.L - 1 := by
    have := List.length_pos_of_ne_nil hmore
    omega
  have hrun := h.run_group
  rw [completeGroup_stores hwithin] at hrun
  refine ⟨_, hrun, ⟨rfl, rfl, rfl, rfl, rfl, rfl⟩, ?_⟩
  exact
    { cap := by simpa [State.cap, State.abortP, hasFlag_or_reduceFlags_abt] using h.cap
      ok := h.ok
      wcnt := rfl
      acc := rfl
      q := h.q
      fits := hfits
      groups := fun ws' hmem => h.groups ws' (List.mem_cons_of_mem ws hmem)
      inputs := rfl }

/-- The last group of a fill stores its sample at the last offset and swaps (R121, R122). -/
theorem Filling.last (h : Filling s [ws] rest) : ∃ t, run s.cfg.G s = .next t ∧ Filled s [ws] rest t := by
  have hfits : s.cursor + 1 = s.cfg.L := h.fits
  have hlast : ¬s.cursor < s.cfg.L - 1 := by omega
  have hroom : 0 < s.cfg.Q := (bounds_of_ok h.ok).2.2
  have hrun := h.run_group
  rw [completeGroup_swaps hlast] at hrun
  refine ⟨_, hrun, ?_⟩
  exact
    { inputs := rfl
      cursor := rfl
      active := rfl
      q := by simp [h.q, hroom]
      missCnt := by simp [h.q]
      lostCnt := by simp [h.q, hroom]
      stored := fun k ws' hk => by
        obtain ⟨rfl, rfl⟩ : k = 0 ∧ ws = ws' := by simpa [List.getElem?_singleton] using hk
        exact Memory.get_put_same ..
      below := fun o ho => Memory.get_put_other _ _ _ _ _ _ fun e => Nat.ne_of_lt ho e.2
      other := fun o => Memory.get_put_other_buffer .. }

/-- One stored sample and then a fill of what is left are a fill: the rest does not write below its own cursor. -/
theorem Filled.cons (ht : Filled u gs rest t) (hu : SampleStored s ws u) : Filled s (ws :: gs) rest t where
  inputs := ht.inputs
  cursor := ht.cursor
  active := by rw [ht.active, hu.active]
  q := by rw [ht.q, hu.active]
  missCnt := by rw [ht.missCnt, hu.missCnt]
  lostCnt := by rw [ht.lostCnt, hu.lostCnt]
  stored k v hk := by
    cases k with
    | zero =>
      obtain rfl : ws = v := by simpa using hk
      have hbelow := ht.below s.cursor (by rw [hu.cursor]; omega)
      rwa [hu.active, hu.buf, Memory.get_put_same] at hbelow
    | succ k =>
      have hstored := ht.stored k v (by simpa using hk)
      rwa [hu.active, hu.cursor, hu.cfg, Nat.add_assoc, Nat.add_comm 1 k] at hstored
  below o ho := by
    have hbelow := ht.below o (by rw [hu.cursor]; omega)
    rw [hu.active, hu.buf] at hbelow
    exact hbelow.trans (Memory.get_put_other _ _ _ _ _ _ fun e => Nat.ne_of_lt ho e.2)
  other o := by
    have hother := ht.other o
    rwa [hu.active, hu.buf, Memory.get_put_other_buffer] at hother

/-- A fill, by induction on its groups: each group but the last stores one sample and leaves a shorter fill. -/
theorem Filling.run_fill (h : Filling s (ws :: gs) rest) :
    ∃ t, run ((ws :: gs).length * s.cfg.G) s = .next t ∧ Filled s (ws :: gs) rest t := by
  induction gs generalizing s ws with
  | nil => simpa using h.last
  | cons ws' gs ih =>
    obtain ⟨u, hrun, hstored, hfilling⟩ := h.tail (List.cons_ne_nil ws' gs)
    obtain ⟨t, hrest, hfilled⟩ := ih hfilling
    refine ⟨t, ?_, hfilled.cons hstored⟩
    rw [List.length_cons, Nat.succ_mul, Nat.add_comm, run_add _ _ hrun, ← hstored.cfg, hrest]

end fill

/-- Settles O24: the `L` groups are a fill that starts at cursor 0. -/
theorem fillStoresSamplesInOrderAndSwapsOnce : Obligations.FillStoresSamplesInOrderAndSwapsOnce := by
  unfold Obligations.FillStoresSamplesInOrderAndSwapsOnce
  intro s gs rest hcap hok hwcnt hacc hcursor hq hlen hgroups hinputs
  have hfilling : Filling s gs rest := ⟨hcap, hok, hwcnt, hacc, hq, by omega, hgroups, hinputs⟩
  cases gs with
  | nil => exact absurd hlen (Nat.ne_of_lt (bounds_of_ok hok).2.1)
  | cons ws gs =>
    obtain ⟨t, hrun, ht⟩ := hfilling.run_fill
    rw [hlen] at hrun
    refine ⟨t, hrun, ht.inputs, ht.cursor, ht.active, ht.q, ht.missCnt, ht.lostCnt, ?_, ht.other⟩
    intro k v hk
    simpa [hcursor, decimate, groupCount] using ht.stored k v hk

end Sys2Proof.Machine
end

section
/-!
The encoding (30_encoding.md): every word of a port decodes by its selecting field, whatever its other fields hold (R82,
R84, R85).
-/

namespace Sys2Proof

/-- Settles O2: the word's `op`, `idx` and `off` read back as they were put in and `sel` as the low three bits of `off`;
what the decoder makes of them is R84's table. The reserved bits occur in none of the four. -/
theorem cWordsDecodeByTheirOpField : Obligations.CWordsDecodeByTheirOpField := by
  unfold Obligations.CWordsDecodeByTheirOpField
  intro cfg op reserved idx off
  rw [decode, decodeC, cOp_word, cIdx_word, cOff_word, cSel_word]
  rfl

/-- A P word packed from its fields decodes to the operation its control bits select (R82). -/
theorem decodeP_packP (cfg : Config) (ovf valid : Bool) {w : Nat} (hw : w < 2 ^ cfg.W) :
    decodeP cfg (packP cfg ovf valid w) = .ok (selectP ovf valid w) := by
  rw [decodeP, if_pos (packP_lt cfg ovf valid hw), rawOvf_packP cfg ovf valid hw, rawValid_packP cfg ovf valid hw,
    rawWord_packP cfg ovf valid hw]

/-- Settles O3: the number is the P word packed from the three fields, and `selectP` is R82's table. -/
theorem pWordsDecodeByTheirControlBits : Obligations.PWordsDecodeByTheirControlBits := by
  unfold Obligations.PWordsDecodeByTheirControlBits
  intro cfg ovf valid w hw
  exact decodeP_packP cfg ovf valid hw

end Sys2Proof
end

section
/-!
The decimator (40_decimator.md): what IDLE, PUSH, OVF and PUSHOVF do (R101, R102, R107, R108), and what one group of
words leaves in the buffer (R103).
-/

namespace Sys2Proof.Machine

/-- Settles O16: neither operation has an effect. -/
theorem idleAndNopChangeNothing : Obligations.IdleAndNopChangeNothing := by
  unfold Obligations.IdleAndNopChangeNothing
  intro s
  exact ⟨rfl, rfl⟩

section whenOk

variable {s : State} (hok : s.cfg.ok = true)
include hok

/-- Under a configuration that is OK the gate of a P operation looks at `cap` alone (R26, R106). -/
theorem whenCapturing_of_ok (effect : State → State) :
    whenCapturing effect s = .next (if s.cap then effect s else s) := by
  rw [whenCapturing, if_pos hok]
  split <;> rfl

theorem exec_push_of_ok (w : Nat) : exec (.push w) s = .next (if s.cap then acceptWord w s else s) :=
  whenCapturing_of_ok hok (acceptWord w)

theorem exec_ovf_of_ok : exec .ovf s = .next (if s.cap then reportOverflow s else s) :=
  whenCapturing_of_ok hok reportOverflow

theorem exec_pushovf_of_ok (w : Nat) :
    exec (.pushovf w) s = .next (if s.cap then acceptWord w (reportOverflow s) else s) :=
  whenCapturing_of_ok hok fun t => acceptWord w (reportOverflow t)

end whenOk

/-- Settles O19: the report sets bit 0 of `flags_p` and takes `sat_inc` of the count. -/
theorem ovfCountsAReport : Obligations.OvfCountsAReport := by
  unfold Obligations.OvfCountsAReport
  intro s hok
  have hmask : PFlag.ovf.mask = 0b00001#5 := by decide
  rw [exec_ovf_of_ok hok, reportOverflow_eq, hmask]
  rfl

/-- Settles O18: the memory is the one with the reduced count put at (active, cursor), and the branches are those of
`acceptWord`: inside a group, a sample inside the buffer, a sample that swaps. -/
theorem pushAccumulatesStoresAndSwaps : Obligations.PushAccumulatesStoresAndSwaps := by
  unfold Obligations.PushAccumulatesStoresAndSwaps
  intro s w hok n smax v red miss lost cmax
  refine ⟨s.buf.put s.active s.cursor v, ?_, Memory.get_put_same .., Memory.get_put_other _ _ _ _⟩
  rw [exec_push_of_ok hok]
  cases hcap : s.cap with
  | false => rfl
  | true =>
    by_cases hgroup : s.wcnt < s.cfg.G - 1
    · simp only [if_true, Bool.true_eq_false, if_false, if_pos hgroup, acceptWord_within hgroup, n]
    · by_cases hcursor : s.cursor < s.cfg.L - 1
      · rw [acceptWord_completes hgroup, completeGroup_stores hcursor]
        simp only [if_true, Bool.true_eq_false, if_false, if_neg hgroup, if_pos hcursor]
        rfl
      · rw [acceptWord_completes hgroup, completeGroup_swaps hcursor]
        simp only [if_true, Bool.true_eq_false, if_false, if_neg hgroup, if_neg hcursor, BitVec.or_assoc]
        rfl

/-- PUSH reads nothing that OVF writes, so after a report it does what it does without, and the report's flag and count
stay (R108). In each case only the flags are left to compare, and the flags of before, joined in twice, count once. -/
theorem acceptWord_reportOverflow (w : Nat) (s : State) :
    acceptWord w (reportOverflow s) =
      { acceptWord w s with
        flagsP := (reportOverflow s).flagsP ||| (acceptWord w s).flagsP
        ovfCnt := (reportOverflow s).ovfCnt } := by
  by_cases hgroup : s.wcnt < s.cfg.G - 1
  · rw [acceptWord_within hgroup, acceptWord_within (s := reportOverflow s) hgroup]
    simp only [reportOverflow_eq]
    congr 1
    ac_rfl
  · rw [acceptWord_completes hgroup, acceptWord_completes (s := reportOverflow s) hgroup]
    by_cases hcursor : s.cursor < s.cfg.L - 1
    · rw [completeGroup_stores hcursor, completeGroup_stores (s := reportOverflow s) hcursor]
      simp only [reportOverflow_eq]
      congr 1
      ac_rfl
    · rw [completeGroup_swaps hcursor, completeGroup_swaps (s := reportOverflow s) hcursor]
      simp only [reportOverflow_eq]
      congr 1
      ac_rfl

/-- Settles O20: while capturing, OVF and PUSH do not meet (`acceptWord_reportOverflow`); else none of the three does
anything. -/
theorem pushovfIsBothOperations : Obligations.PushovfIsBothOperations := by
  unfold Obligations.PushovfIsBothOperations
  intro s w hok
  refine ⟨_, _, exec_ovf_of_ok hok, exec_push_of_ok hok w, ?_⟩
  rw [exec_pushovf_of_ok hok]
  cases s.cap with
  | false => simp
  | true => simp only [if_true, acceptWord_reportOverflow]

/-! ## One group -/

/-- A completed group starts the next one and stores its sample at (active, cursor), whether or not it swaps (R102). -/
theorem completeGroup_restarts_and_stores (n : Nat) (s : State) :
    (completeGroup n s).acc = 0 ∧ (completeGroup n s).wcnt = 0 ∧
      (completeGroup n s).buf = s.buf.put s.active s.cursor (reduceValue s.cfg n) := by
  by_cases hcursor : s.cursor < s.cfg.L - 1
  · rw [completeGroup_stores hcursor]
    exact ⟨rfl, rfl, rfl⟩
  · rw [completeGroup_swaps hcursor]
    exact ⟨rfl, rfl, rfl⟩

/-- Settles O22: the group's words run to its completion (`run_groupLines`), which stores the reduced count of all of
them. -/
theorem groupStoresItsReducedBitCount : Obligations.GroupStoresItsReducedBitCount := by
  unfold Obligations.GroupStoresItsReducedBitCount
  intro s ws rest hcap hok hwcnt hacc hlen hws hin
  have hopen : s.wcnt < s.cfg.G := hwcnt ▸ (bounds_of_ok hok).1
  have hrun := run_groupLines hcap hok hopen (by omega) hws hin
  rw [hlen, hacc, Nat.zero_add] at hrun
  obtain ⟨hacc', hwcnt', hbuf⟩ := completeGroup_restarts_and_stores (groupCount s.cfg ws) s
  refine ⟨_, hrun, hwcnt', hacc', rfl, ?_, ?_⟩ <;> rw [withInputs_buf, hbuf]
  · exact Memory.get_put_same ..
  · exact Memory.get_put_other _ _ _ _

end Sys2Proof.Machine
end

section
/-!
The drain scheduler (42_drain_scheduler.md): the moves of R140's table one by one (DELIVER R145, TAKE R143, DONE R147,
RETIRE R146), and that a step makes no others.
-/

namespace Sys2Proof.Machine

variable {s t : State}

/-- Settles O25: R143 is the definition of TAKE's meaning, `raise PROTO` written out. -/
theorem takeAcceptsThePendingRequest : Obligations.TakeAcceptsThePendingRequest := by
  unfold Obligations.TakeAcceptsThePendingRequest
  intro s
  rfl

/-- Settles O26: R147 is the definition of DONE's meaning; what has been read does not occur in it. -/
theorem doneFinishesTheDrain : Obligations.DoneFinishesTheDrain := by
  unfold Obligations.DoneFinishesTheDrain
  intro s
  rfl

section syncTurn

variable {k : SyncStep} {rest : List Input} (hin : s.inputs = .sync k :: rest)
include hin

/-- A turn of SYNC that is pending first. -/
theorem step_sync : step s = .next (syncTurn k (withInputs rest s)) := by
  simp only [step, hin]

theorem step_sync_enabled (hk : syncEnabled k s = true) : step s = .next (syncEffect k (withInputs rest s)) := by
  rw [step_sync hin, syncTurn_enabled (by rwa [withInputs_syncEnabled])]

theorem step_sync_disabled (hk : syncEnabled k s = false) : step s = .next (withInputs rest s) := by
  rw [step_sync hin, syncTurn_disabled (by rwa [withInputs_syncEnabled])]

end syncTurn

/-- Settles O8: DELIVER is enabled, and the head it puts into `slot` is `i`. -/
theorem deliverOffersTheQueueHead : Obligations.DeliverOffersTheQueueHead := by
  unfold Obligations.DeliverOffersTheQueueHead
  intro s rest i l hin hq hidle hack
  have henabled : syncEnabled .deliver s = true := (syncEnabled_iff _ s).2 ⟨by simp [hq], hidle, hack⟩
  refine ⟨_, ?_, rfl, decide_eq_true rfl, rfl⟩
  rw [step_sync_enabled hin henabled]
  simp [syncEffect, deliver, withInputs, hq]

/-- Settles O9: RETIRE is enabled, and the queue without its oldest entry is `l`. -/
theorem retireRemovesTheFinishedRequest : Obligations.RetireRemovesTheFinishedRequest := by
  unfold Obligations.RetireRemovesTheFinishedRequest
  intro s rest i l hin hq hack
  rw [step_sync_enabled hin hack]
  simp [syncEffect, retire, withInputs, hq]

/-! ## No other moves -/

/-- No transition of SRC writes what `ConsumerSame` lists (60_exceptions.md R236). -/
theorem Move.consumerSame (h : Move .src s t) : ConsumerSame s t := by
  cases h with
  | stay => constructor <;> rfl
  | accept w => exact acceptWord_consumerSame w s
  | overflow => exact reportOverflow_consumerSame s
  | both w => exact { acceptWord_consumerSame w (reportOverflow s) with }

/-- A P word leaves the scheduler where it is. -/
theorem step_src_sch (hstep : step s = .next t) (hsrc : nextAgent s = .src) : t.sch = s.sch := by
  obtain ⟨u, d, hmove, rfl⟩ := step_moves hstep
  rw [hsrc] at hmove
  exact hmove.consumerSame.sch

/-- Of the C operations only TAKE, in PENDING, and DONE, in DRAINING, move the scheduler. -/
theorem exec_sch_cases {i : Instr} (hhost : portAgent i = .host) (hexec : exec i s = .next t)
    (hmoved : t.sch ≠ s.sch) :
    (i = .take ∧ s.sch = .pending ∧ t.sch = .draining) ∨ (i = .done ∧ s.sch = .draining ∧ t.sch = .idle) := by
  cases i with
  | idle | push | ovf | pushovf => cases hhost
  | take =>
    injection hexec with hexec
    subst hexec
    split at hmoved
    next hpending => exact .inl ⟨rfl, hpending, by rw [if_pos hpending]⟩
    next => exact absurd rfl hmoved
  | done =>
    injection hexec with hexec
    subst hexec
    split at hmoved
    next hdraining => exact .inr ⟨rfl, hdraining, by rw [if_pos hdraining]⟩
    next => exact absurd rfl hmoved
  | nop | rsvd7 =>
    injection hexec with hexec
    subst hexec
    exact absurd rfl hmoved
  | start | stop | rdstat =>
    injection hexec with hexec
    subst hexec
    split at hmoved <;> exact absurd rfl hmoved
  | read idx off =>
    simp only [exec, execRead] at hexec
    split at hexec <;> injection hexec with hexec <;> subst hexec <;> exact absurd rfl hmoved

/-- Of the internal steps only DELIVER and QUIESCE, both in IDLE, move the scheduler. -/
theorem syncEffect_sch_cases {k : SyncStep} (hk : syncEnabled k s = true) (hmoved : (syncEffect k s).sch ≠ s.sch) :
    (k = .deliver ∧ s.sch = .idle ∧ s.q ≠ [] ∧ s.ackPend = false) ∨
      (k = .quiesce ∧ s.sch = .idle ∧ (s.stopReq = true ∨ s.abortP = true) ∧ s.cap = false ∧ s.q = [] ∧
        s.flagsC = s.flagsP) := by
  rw [syncEnabled_iff] at hk
  cases k with
  | runsync | retire | flagsync => exact absurd rfl hmoved
  | deliver =>
    obtain ⟨hq, hidle, hack⟩ := hk
    exact .inl ⟨rfl, hidle, hq, hack⟩
  | quiesce =>
    obtain ⟨hstop, hcap, hq, hidle, hflags⟩ := hk
    exact .inr ⟨rfl, hidle, hstop, hcap, hq, hflags⟩

/-- The pending steps do not matter to where an internal step leaves the scheduler. -/
theorem syncEffect_withInputs_sch (k : SyncStep) (l : List Input) (s : State) :
    (syncEffect k (withInputs l s)).sch = (syncEffect k s).sch := by
  cases k <;> rfl

/-- HOST moves when a C word is pending first. -/
theorem nextAgent_host (h : nextAgent s = .host) : ∃ w rest, s.inputs = .host w :: rest := by
  unfold nextAgent at h
  split at h <;> simp_all

/-- SYNC moves when nothing is pending or its turn is first. -/
theorem nextAgent_sync (h : nextAgent s = .sync) : s.inputs = [] ∨ ∃ k rest, s.inputs = .sync k :: rest := by
  unfold nextAgent at h
  split at h <;> simp_all

/-- A step of HOST executes the operation its word decodes to. -/
theorem step_host (hstep : step s = .next t) (hhost : nextAgent s = .host) :
    ∃ w, s.inputs.head? = some (.host w) ∧ exec (decodeC w) (withInputs s.inputs.tail s) = .next t := by
  obtain ⟨w, rest, hin⟩ := nextAgent_host hhost
  simp only [step, hin] at hstep
  exact ⟨w, by rw [hin, List.head?_cons], by rw [hin]; exact hstep⟩

/-- A step of SYNC, in its turn or in a quiet environment, takes an enabled internal step or leaves the scheduler
alone. -/
theorem step_sync_cases (hstep : step s = .next t) (hsync : nextAgent s = .sync) :
    t.sch = s.sch ∨
      ∃ k, (s.inputs = [] ∨ s.inputs.head? = some (.sync k)) ∧ syncEnabled k s = true ∧
        t.sch = (syncEffect k s).sch := by
  obtain hin | ⟨k, rest, hin⟩ := nextAgent_sync hsync
  · simp only [step, hin] at hstep
    injection hstep with hstep
    subst hstep
    obtain hquiet | ⟨k, hk, hquiet⟩ := quietStep_cases s
    · exact .inl (by rw [hquiet])
    · exact .inr ⟨k, .inl hin, hk, by rw [hquiet]⟩
  · cases hk : syncEnabled k s with
    | true =>
      rw [step_sync_enabled hin hk] at hstep
      injection hstep with hstep
      exact .inr ⟨k, .inr (by rw [hin, List.head?_cons]), hk, by rw [← hstep, syncEffect_withInputs_sch]⟩
    | false =>
      rw [step_sync_disabled hin hk] at hstep
      injection hstep with hstep
      exact .inl (by rw [← hstep, withInputs_sch])

/-- A step of RST is RESET and, where it moves the scheduler, leaves it in IDLE. -/
theorem step_rst_sch (hstep : step s = .next t) (hrst : nextAgent s = .rst) (hmoved : t.sch ≠ s.sch) :
    s.inputs.head? = some .rst ∧ t.sch = .idle := by
  refine ⟨Decidable.byContradiction fun h => nextAgent_ne_rst h hrst, ?_⟩
  obtain ⟨u, d, hmove, rfl⟩ := step_moves hstep
  rw [hrst] at hmove
  cases hmove with
  | stay => exact absurd rfl hmoved
  | reset => rfl

/-- Settles O47: the agents in turn. SRC does not move the scheduler; HOST moves it by TAKE and DONE (`exec_sch_cases`),
SYNC by DELIVER and QUIESCE (`syncEffect_sch_cases`), RST to IDLE. -/
theorem schedulerMovesOnlyAsListed : Obligations.SchedulerMovesOnlyAsListed := by
  unfold Obligations.SchedulerMovesOnlyAsListed
  refine ⟨fun s => ⟨fun h => ?_, fun h => ?_⟩, ?_⟩
  · rw [takeAcceptsThePendingRequest, if_neg h]
  · rw [doneFinishesTheDrain, if_neg h]
  intro s t hstep hmoved
  cases hagent : nextAgent s with
  | src => exact absurd (step_src_sch hstep hagent) hmoved
  | host =>
    obtain ⟨w, hin, hexec⟩ := step_host hstep hagent
    obtain ⟨hop, hfrom, hto⟩ | ⟨hop, hfrom, hto⟩ := exec_sch_cases (decodeC_portAgent w) hexec hmoved
    · exact .inr (.inl ⟨hfrom, hto, w, hin, congrArg _ hop⟩)
    · exact .inr (.inr (.inl ⟨hfrom, hto, w, hin, congrArg _ hop⟩))
  | sync =>
    obtain hsame | ⟨k, hin, hk, hto⟩ := step_sync_cases hstep hagent
    · exact absurd hsame hmoved
    · rw [hto] at hmoved ⊢
      obtain ⟨rfl, hidle, hq, hack⟩ | ⟨rfl, hidle, hstop, hcap, hq, hflags⟩ := syncEffect_sch_cases hk hmoved
      · exact .inl ⟨hidle, rfl, hq, hack, hin⟩
      · exact .inr (.inr (.inr (.inl ⟨hidle, rfl, hstop, hcap, hq, hflags, hin⟩)))
  | rst => exact .inr (.inr (.inr (.inr (step_rst_sch hstep hagent hmoved))))

end Sys2Proof.Machine
end

section
/-!
Control and status (43_control_status.md): START (R171), the reserved operation (R173), and what RDSTAT reads (R174,
R175).
-/

namespace Sys2Proof.Machine

/-- Settles O28: START's guard is the conjunction of R171's four conditions. -/
theorem startRequestsCapture : Obligations.StartRequestsCapture := by
  unfold Obligations.StartRequestsCapture
  intro s
  simp only [← startAccepted_iff]
  rfl

/-- Settles O30: R173's pseudocode, `raise PROTO`, is the definition of RSVD7's meaning. -/
theorem reservedCommandOnlyRaisesProto : Obligations.ReservedCommandOnlyRaisesProto := by
  unfold Obligations.ReservedCommandOnlyRaisesProto
  intro s
  rfl

/-! ## The status registers as numbers -/

/-- The number of a concatenation: the upper part weighs `2 ^ n`. -/
theorem toNat_append_eq_add {m n : Nat} (x : BitVec m) (y : BitVec n) :
    (x ++ y).toNat = x.toNat * 2 ^ n + y.toNat := by
  rw [BitVec.toNat_append, ← Nat.shiftLeft_add_eq_or_of_lt y.isLt, Nat.shiftLeft_eq]

/-- What one bit contributes to a number at the weight `k`. -/
theorem toNat_ofBool_mul (b : Bool) (k : Nat) : (BitVec.ofBool b).toNat * k = if b then k else 0 := by
  cases b <;> simp

/-- STATUS is the sum of its fields at their weights (R174). -/
theorem statusWord_eq_sum (s : State) :
    statusWord s = BitVec.ofNat 32
      (s.sch.toBits.toNat + s.slot.toBit.toNat * 4 + (if s.runReq then 8 else 0) + if s.stopReq then 16 else 0) := by
  rw [statusWord, ← BitVec.ofNat_toNat, ← toNat_ofBool_mul, ← toNat_ofBool_mul]
  simp only [toNat_append_eq_add]
  congr 1
  omega

/-- FLAGS is the sum of its fields at their weights (R174). -/
theorem flagsWord_eq_sum (s : State) :
    flagsWord s = BitVec.ofNat 32
      (s.flagsC.toNat + (if s.cfg.cfgerr then 32 else 0) + if s.proto then 64 else 0) := by
  rw [flagsWord, ← BitVec.ofNat_toNat, ← toNat_ofBool_mul, ← toNat_ofBool_mul]
  simp only [toNat_append_eq_add]
  congr 1
  omega

/-- POS is the cursor, which leaves bits 24 to 30 zero if it fits its field, with `active` in bit 31 (R175). -/
theorem posWord_eq_sum {s : State} (hcursor : s.cursor < 2 ^ 24) :
    posWord s = BitVec.ofNat 32 (s.cursor + s.active.toBit.toNat * 2 ^ 31) := by
  have hactive : s.active.toBit.toNat < 2 ^ 1 := s.active.toBit.isLt
  apply BitVec.eq_of_toNat_eq
  rw [posWord, toNat_append_eq_add, toNat_append_eq_add, BitVec.toNat_ofNat, BitVec.toNat_ofNat, BitVec.toNat_ofNat]
  omega

/-! ## RDSTAT -/

/-- A register held in the consumer domain, or any register while the producer is not capturing, reads exactly. -/
theorem exec_rdstat_exact {s : State} {sel : StatReg} (h : (s.cap && producerHeld sel) = false) :
    exec (.rdstat sel) s = .next (setRdata (statWord s sel) s) := by
  simp [exec, execRdstat, h]

/-- A register held in the producer domain reads a free value while the producer captures. -/
theorem exec_rdstat_drawn {s : State} {sel : StatReg} (hcap : s.cap = true) (hheld : producerHeld sel = true) :
    exec (.rdstat sel) s = .next (drawRdata (anyWord s) s) := by
  simp [exec, execRdstat, hcap, hheld]

/-- Settles O31: none of the four is held in the producer domain, so each reads exactly; STATUS and FLAGS are then taken
as sums. -/
theorem statusAndFlagsReadExactly : Obligations.StatusAndFlagsReadExactly := by
  unfold Obligations.StatusAndFlagsReadExactly
  intro s
  have exact_of (sel : StatReg) (h : producerHeld sel = false) :=
    exec_rdstat_exact (s := s) (sel := sel) (by rw [h, Bool.and_false])
  refine ⟨?status, ?flags, exact_of .sr6 rfl, exact_of .sr7 rfl⟩
  case status =>
    rw [exact_of .status rfl, statWord, statusWord_eq_sum, setRdata]
    congr 6
    · cases s.sch <;> rfl
    · cases s.slot <;> rfl
  case flags =>
    rw [exact_of .flags rfl, statWord, flagsWord_eq_sum, setRdata]

/-- Settles O32: without `cap` the four read exactly, POS as a sum; with it each draws a word. -/
theorem producerRegistersReadExactlyWhenHalted : Obligations.ProducerRegistersReadExactlyWhenHalted := by
  unfold Obligations.ProducerRegistersReadExactlyWhenHalted
  refine fun s => ⟨fun hcap hcursor => ?halted, fun hcap sel hsel => ?capturing⟩
  case halted =>
    have exact_of (sel : StatReg) := exec_rdstat_exact (s := s) (sel := sel) (by rw [hcap, Bool.false_and])
    refine ⟨?_, exact_of .ovfCnt, exact_of .missCnt, exact_of .lostCnt⟩
    rw [exact_of .pos, statWord, posWord_eq_sum hcursor, setRdata]
    congr 4
    cases s.active <;> rfl
  case capturing =>
    have hheld : producerHeld sel = true := by rcases hsel with rfl | rfl | rfl | rfl <;> rfl
    exact ⟨anyWord s, s.draws + 1, exec_rdstat_drawn hcap hheld⟩

end Sys2Proof.Machine
end

section
/-!
Exceptions (60_exceptions.md): which C operations raise PROTO (R228), and the constant CFG of a failing configuration
(R225).
-/

namespace Sys2Proof.Machine

variable {s t : State}

/-- A START that fails one of R171's conditions only raises PROTO. -/
theorem exec_start_rejected (h : startAccepted s = false) : exec .start s = .next (raiseProto s) := by
  simp [exec, execStart, h]

/-- A START is rejected under each of the four causes R228 lists, and otherwise accepted. -/
theorem startAccepted_eq_false_iff (s : State) :
    startAccepted s = false ↔ s.sch ≠ .idle ∨ s.runReq = true ∨ s.stopReq = true ∨ s.cfg.cfgerr = true := by
  rw [← Bool.not_eq_true, startAccepted_iff]
  simp only [not_and_or, Bool.not_eq_false, ne_eq]

theorem exec_stop_proto (s : State) : ∃ t, exec .stop s = .next t ∧ t.proto = s.proto := by
  refine ⟨_, rfl, ?_⟩
  split <;> rfl

/-- READ writes `rdata` with the stored sample or with a drawn one. -/
theorem exec_read_proto (i : BufIdx) (o : BitVec 24) (s : State) :
    ∃ t, exec (.read i o) s = .next t ∧ t.proto = s.proto := by
  cases hread : memRead s i o.toNat with
  | some v => exact ⟨setRdata (BitVec.ofNat 32 v) s, by rw [exec, execRead, hread], rfl⟩
  | none => exact ⟨drawRdata (anySample s) s, by rw [exec, execRead, hread], rfl⟩

theorem exec_rdstat_proto (r : StatReg) (s : State) : ∃ t, exec (.rdstat r) s = .next t ∧ t.proto = s.proto := by
  refine ⟨_, rfl, ?_⟩
  split <;> rfl

/-- Settles O33: each cause negates the guard under which the operation would be accepted, and of the four operations
that are never rejected none writes `proto`. -/
theorem rejectedCommandsOnlyRaiseProto : Obligations.RejectedCommandsOnlyRaiseProto := by
  unfold Obligations.RejectedCommandsOnlyRaiseProto
  refine fun s => ⟨?start, ?take, ?done, reservedCommandOnlyRaisesProto s, ?never⟩
  case start => exact fun h => exec_start_rejected ((startAccepted_eq_false_iff s).2 h)
  case take => exact fun h => by rw [takeAcceptsThePendingRequest s, if_neg h]
  case done => exact fun h => by rw [doneFinishesTheDrain s, if_neg h]
  case never =>
    rintro i (rfl | rfl | ⟨b, o, rfl⟩ | ⟨r, rfl⟩)
    · exact ⟨s, (idleAndNopChangeNothing s).2, rfl⟩
    · exact exec_stop_proto s
    · exact exec_read_proto b o s
    · exact exec_rdstat_proto r s

/-! ## The configuration error -/

/-- Bit 5 of FLAGS is `CFG`: it stands just above the five producer flags. -/
theorem flagsWord_bit_cfg (s : State) : (flagsWord s).getLsbD 5 = s.cfg.cfgerr := by
  rw [flagsWord, BitVec.getLsbD_setWidth, BitVec.getLsbD_append, BitVec.getLsbD_append]
  simp

theorem cfgerr_iff (cfg : Config) : cfg.cfgerr = true ↔ cfg.ok = false := by
  simp [Config.cfgerr]

/-- No transition writes the configuration: SRC's keep it with the consumer's variables, HOST's and SYNC's with the
producer's, and RESET starts again from the state's own. -/
theorem Move.cfg_eq {a : Agent} (h : Move a s t) : t.cfg = s.cfg := by
  cases a with
  | src => exact h.consumerSame.cfg
  | host | sync => exact (h.producerSame (by decide) (by decide)).cfg
  | rst => cases h <;> rfl

theorem step_cfg_eq (h : step s = .next t) : t.cfg = s.cfg := by
  obtain ⟨u, d, hmove, rfl⟩ := step_moves h
  exact hmove.cfg_eq

/-- Settles O35: FLAGS is a consumer-domain register, so it reads exactly and shows `cfgerr`; that same bit is one of
START's four causes of rejection, and no transition writes the configuration behind it. -/
theorem configurationErrorRejectsEveryStart : Obligations.ConfigurationErrorRejectsEveryStart := by
  unfold Obligations.ConfigurationErrorRejectsEveryStart
  refine fun s => ⟨?flags, ?start, fun t => step_cfg_eq⟩
  case flags =>
    refine ⟨_, exec_rdstat_exact (Bool.and_false s.cap), ?_⟩
    rw [setRdata_rdata, statWord, flagsWord_bit_cfg, cfgerr_iff]
  case start =>
    intro hok
    have hcfg : s.cfg.cfgerr = true := (cfgerr_iff s.cfg).2 hok
    exact exec_start_rejected ((startAccepted_eq_false_iff s).2 (.inr (.inr (.inr hcfg))))

end Sys2Proof.Machine
end

section
/-!
Reset (70_reset_and_hazards.md): R250's table of reset values and the outputs that follow.
-/

namespace Sys2Proof.Machine

/-- A RESET that is pending first. -/
theorem step_rst {s : State} {rest : List Input} (hin : s.inputs = .rst :: rest) :
    step s = .next (resetStep (withInputs rest s)) := by
  simp only [step, hin]

/-- After RESET both buffers are empty. -/
theorem reset_buf_get (s : State) (i : BufIdx) (o : Nat) : (resetStep s).buf.get i o = none := by
  cases i with
  | b0 | b1 => rfl

/-- RESET clears `flags_c` and `proto`, which leaves the constant `cfgerr` as the only cause of `c_fault`. -/
theorem reset_cFault (s : State) : cFault (resetStep s) = s.cfg.cfgerr := by
  have hflags : (resetStep s).flagsC = 0#5 := rfl
  have hproto : (resetStep s).proto = false := rfl
  have hcfg : (resetStep s).cfg = s.cfg := rfl
  rw [Bool.eq_iff_iff, cFault_iff, hflags, hproto, hcfg]
  simp

/-- Settles O13: the state after RESET is R250's table over the configuration, read off entry by entry; only the bit `ABT`,
the buffer memory and `c_fault` need a lemma. -/
theorem resetSetsEveryVariable : Obligations.ResetSetsEveryVariable := by
  unfold Obligations.ResetSetsEveryVariable
  intro s rest hin
  refine ⟨_, step_rst hin, rfl, rfl, ?abort, rfl, rfl, rfl, rfl, rfl, rfl, rfl, rfl, rfl, ?memory, rfl, rfl, rfl, rfl, rfl,
    rfl, rfl, rfl, rfl, rfl, rfl, rfl, rfl, ?fault⟩
  case abort => exact reset_abortP _
  case memory => exact reset_buf_get _
  case fault => exact reset_cFault _

end Sys2Proof.Machine
end

section
/-!
The encoding (30_encoding.md): every port word decodes to a well-formed operation (R80), the encoder's words decode
back, and a step executes what its word decodes to.
-/

namespace Sys2Proof

/-- The C word packed from its fields decodes by them (R84). -/
theorem decodeC_packC_read (idx : BufIdx) (off : BitVec 24) : decodeC (packC 4#3 idx.toBit off) = .read idx off := by
  have hidx : (if idx.toBit = 0#1 then BufIdx.b0 else .b1) = idx := by cases idx <;> rfl
  rw [packC, decodeC, cOp_word, cIdx_word, cOff_word, hidx]
  rfl

theorem decodeC_packC_rdstat (sel : StatReg) :
    decodeC (packC 6#3 0#1 (sel.toBits.setWidth 24)) = .rdstat sel := by
  have hsel : StatReg.numbered ((sel.toBits.setWidth 24).toNat % 8) = sel := by cases sel <;> rfl
  rw [packC, decodeC, cOp_word, cSel_word, hsel]
  rfl

/-- Settles O5: a P word is packed from the control bits that select its operation (`decodeP_packP`); of the C words
only those of READ and RDSTAT hold an operand, the others are six fixed words. -/
theorem encodedInstructionsDecodeBack : Obligations.EncodedInstructionsDecodeBack := by
  unfold Obligations.EncodedInstructionsDecodeBack
  intro cfg i hwf
  cases i with
  | idle => exact decodeP_packP cfg false false (Nat.two_pow_pos _)
  | push w => exact decodeP_packP cfg false true (of_decide_eq_true hwf)
  | ovf => exact decodeP_packP cfg true false (Nat.two_pow_pos _)
  | pushovf w => exact decodeP_packP cfg true true (of_decide_eq_true hwf)
  | read idx off => exact congrArg Except.ok (decodeC_packC_read idx off)
  | rdstat sel => exact congrArg Except.ok (decodeC_packC_rdstat sel)
  | nop | start | stop | take | done | rsvd7 => rfl

/-- The operations of the C port have no operand that could be ill-formed. -/
theorem wellFormed_of_host (cfg : Config) {i : Instr} (h : Machine.portAgent i = .host) : wellFormed cfg i = true := by
  cases i with
  | idle | push | ovf | pushovf => cases h
  | nop | start | stop | take | read | done | rdstat | rsvd7 => rfl

/-- Whatever the control bits, an operand of `W` bits is well formed. -/
theorem wellFormed_selectP (cfg : Config) (ovf valid : Bool) {w : Nat} (hw : w < 2 ^ cfg.W) :
    wellFormed cfg (selectP ovf valid w) = true := by
  cases ovf <;> cases valid <;> simp [selectP, wellFormed, hw]

/-- Settles O4: a C word decodes to an operation of the C port, a P word to one selected by its control bits with an
operand of `W` bits, and the decoder's guard is R81's width. -/
theorem everyPortWordDecodes : Obligations.EveryPortWordDecodes := by
  unfold Obligations.EveryPortWordDecodes
  intro cfg
  refine ⟨fun c => ?cWord, fun w hw => ?pWord, fun w hw => ?wide⟩
  case cWord => exact ⟨decodeC c, rfl, wellFormed_of_host cfg (Machine.decodeC_portAgent c)⟩
  case pWord =>
    have hraw : rawWord cfg w < 2 ^ cfg.W := Nat.mod_lt _ (Nat.two_pow_pos _)
    exact ⟨_, if_pos hw, wellFormed_selectP cfg _ _ hraw⟩
  case wide => exact if_neg (Nat.not_lt.2 hw)

/-- Settles O1: the decoder evaluated on twelve words. -/
theorem opcodeTableWordsDecode : Obligations.OpcodeTableWordsDecode := by
  unfold Obligations.OpcodeTableWordsDecode
  exact ⟨rfl, rfl, rfl, rfl, rfl, rfl, rfl, rfl, rfl, rfl, rfl, rfl⟩

namespace Machine

/-- A word whose operation is `i` runs as `exec i`. -/
theorem runWord_of_decode {w : PortWord} {s : State} {i : Instr} (h : decode s.cfg w = .ok i) :
    runWord w s = exec i s := by
  simp only [runWord, h]

/-- Settles O6: the step takes the word off the pending steps and runs it. -/
theorem stepRunsTheDecodedPortWord : Obligations.StepRunsTheDecodedPortWord := by
  unfold Obligations.StepRunsTheDecodedPortWord
  refine fun s rest i => ⟨fun w hin hdecode => ?src, fun w hin hdecode => ?host⟩
  all_goals
    simp only [step, hin]
    exact runWord_of_decode (s := withInputs rest s) hdecode

end Machine

end Sys2Proof
end

section
/-!
The invariants of the state (10_state.md R22 to R37, 20_memory.md, 41_double_buffer.md): they hold after RESET, and
every transition of every agent keeps them.
-/

namespace Sys2Proof.Machine

variable {s u : State}

/-- The invariants do not look at the model's own fields. -/
theorem StateInv.of_model (h : StateInv s) (l : List Input) (d : Nat) : StateInv { s with inputs := l, draws := d } :=
  { h with }

/-- After RESET nothing is captured, counted, queued or stored. -/
theorem stateInv_initial (cfg : Config) (l : List Input) (d : Nat) :
    StateInv { State.initial cfg with inputs := l, draws := d } where
  requestConfigured := nofun
  captureConfigured := nofun
  accBound := Nat.zero_le _
  wcntRange hok := (bounds_of_ok hok).1
  cursorRange hok := (bounds_of_ok hok).2.1
  queueBound := Nat.zero_le _
  ovfBound := Nat.zero_le _
  missBound := Nat.zero_le _
  lostBound := Nat.zero_le _
  memWf := reset_memWf cfg
  samplesFit i o v hv := absurd hv (by cases i <;> simp [State.initial, Memory.get, Memory.cells, cellGet])
  filledBelow := nofun
  queuedFilled := nofun
  ackHeld := nofun
  offeredIsHead := by rintro (h | h) <;> cases h
  stoppedFinal := nofun
  viewLags := flagsLe_refl _
  stopHeld := nofun

/-! ## The transitions of SRC -/

theorem cap_iff (s : State) : s.cap = true ↔ s.runP = true ∧ s.abortP = false := by simp [State.cap]

theorem StateInv.not_stopped (h : StateInv s) (hcap : s.cap = true) : s.sch ≠ .stopped := by
  intro hstopped
  obtain ⟨-, -, hnocap, -⟩ := h.stoppedFinal hstopped
  simp [hcap] at hnocap

/-- While the producer captures, whatever STOPPED is to imply holds, because the scheduler is not in STOPPED. -/
theorem StateInv.stoppedFinal_of_cap {P : Prop} (h : StateInv s) (hcap : s.cap = true) (hstopped : s.sch = .stopped) :
    P :=
  absurd hstopped (h.not_stopped hcap)

theorem hasFlag_or (a b : BitVec 5) (f : PFlag) : hasFlag (a ||| b) f = (hasFlag a f || hasFlag b f) := by
  simp [hasFlag]

theorem reportOverflow_cap (s : State) : (reportOverflow s).cap = s.cap := by
  simp [State.cap, State.abortP, reportOverflow, hasFlag_or_mask]

theorem StateInv.after_reportOverflow (h : StateInv s) (hcap : s.cap = true) : StateInv (reportOverflow s) :=
  { h with
    ovfBound := satInc_le ..
    stoppedFinal := h.stoppedFinal_of_cap hcap
    viewLags := flagsLe_trans h.viewLags (flagsLe_or_right ..) }

/-- A sample stored at the cursor of the active buffer keeps every stored sample in range. -/
theorem StateInv.samplesFit_put (h : StateInv s) (hok : s.cfg.ok = true) (n : Nat) (i : BufIdx) (o v : Nat)
    (hv : (s.buf.put s.active s.cursor (reduceValue s.cfg n)).get i o = some v) : o < s.cfg.L ∧ v ≤ s.cfg.SMAX := by
  rw [Memory.get_put] at hv
  split at hv
  next hplace =>
    obtain rfl := Option.some.inj hv
    exact ⟨hplace.2 ▸ h.cursorRange hok, reduceValue_le ..⟩
  next => exact h.samplesFit i o v hv

/-- A sample stored at the cursor of the active buffer fills it up to there. -/
theorem StateInv.isSome_put_of_le_cursor (h : StateInv s) (v : Nat) {o : Nat} (ho : o ≤ s.cursor) :
    ((s.buf.put s.active s.cursor v).get s.active o).isSome = true := by
  obtain hlt | rfl := Nat.lt_or_eq_of_le ho
  · exact Memory.isSome_put (h.filledBelow o hlt) ..
  · rw [Memory.get_put_same]; rfl

theorem StateInv.after_acceptWord (h : StateInv s) (hcap : s.cap = true) (hok : s.cfg.ok = true) (w : Nat) :
    StateInv (acceptWord w s) := by
  obtain ⟨hG, hL, -⟩ := bounds_of_ok hok
  refine acceptWord_cases w s (fun hgroup => ?within) (fun _ hcursor => ?stores) (fun _ hcursor => ?swaps)
  case within =>
    have hacc : s.acc + popcount s.cfg.W w ≤ (s.wcnt + 1) * s.cfg.W := by
      rw [Nat.succ_mul]
      exact Nat.add_le_add h.accBound (popcount_le ..)
    exact
      { h with
        accBound := hacc
        wcntRange := fun _ => by simp only; omega }
  case stores =>
    exact
      { h with
        accBound := Nat.zero_le _
        wcntRange := fun _ => hG
        cursorRange := fun _ => by simp only; omega
        memWf := Memory.wf_put h.memWf ..
        samplesFit := h.samplesFit_put hok _
        filledBelow := fun o ho => h.isSome_put_of_le_cursor _ (Nat.le_of_lt_succ ho)
        queuedFilled := fun i hi o ho => Memory.isSome_put (h.queuedFilled i hi o ho) ..
        stoppedFinal := h.stoppedFinal_of_cap hcap
        viewLags := flagsLe_trans h.viewLags (flagsLe_or_right ..) }
  case swaps =>
    have hfull (o : Nat) (ho : o < s.cfg.L) : o ≤ s.cursor := by omega
    exact
      { h with
        accBound := Nat.zero_le _
        wcntRange := fun _ => hG
        cursorRange := fun _ => hL
        queueBound := by
          have := h.queueBound
          dsimp only
          split
          · rw [List.length_append, List.length_singleton]; omega
          · exact this
        missBound := by dsimp only; split <;> [exact h.missBound; exact satInc_le ..]
        lostBound := by dsimp only; split <;> [exact h.lostBound; exact satInc_le ..]
        memWf := Memory.wf_put h.memWf ..
        samplesFit := h.samplesFit_put hok _
        filledBelow := nofun
        queuedFilled := fun i hi o ho => by
          have hqueued : i ∈ s.q ∨ i = s.active := by
            dsimp only at hi
            split at hi
            · exact (List.mem_append.1 hi).imp_right List.mem_singleton.1
            · exact .inl hi
          obtain hi | rfl := hqueued
          · exact Memory.isSome_put (h.queuedFilled i hi o ho) ..
          · exact h.isSome_put_of_le_cursor _ (hfull o ho)
        ackHeld := fun hack => by
          obtain ⟨hq, hidle⟩ := h.ackHeld hack
          refine ⟨?_, hidle⟩
          dsimp only
          split <;> simp [hq]
        offeredIsHead := fun hsch => by
          obtain ⟨hhead, hack⟩ := h.offeredIsHead hsch
          refine ⟨?_, hack⟩
          dsimp only
          split <;> simp [hhead]
        stoppedFinal := h.stoppedFinal_of_cap hcap
        viewLags := by
          dsimp only
          rw [BitVec.or_assoc]
          exact flagsLe_trans h.viewLags (flagsLe_or_right ..) }

/-! ## The transitions of SYNC -/

/-- A STOP has withdrawn the run request and an abort ends capture, so after either RUNSYNC starts none. -/
theorem StateInv.runsync_cap (h : StateInv s) (hcause : s.stopReq = true ∨ s.abortP = true) :
    (runsync s).cap = false := by
  obtain hstop | habort := hcause
  · have hreq := h.stopHeld hstop
    simp [State.cap, hreq]
  · exact cap_of_abort habort

theorem StateInv.after_syncEffect (h : StateInv s) {k : SyncStep} (hk : syncEnabled k s = true) :
    StateInv (syncEffect k s) := by
  rw [syncEnabled_iff] at hk
  cases k with
  | runsync =>
    exact
      { h with
        captureConfigured := h.requestConfigured
        stoppedFinal := fun hstopped => by
          obtain ⟨hq, hack, -, hflags, hcause⟩ := h.stoppedFinal hstopped
          exact ⟨hq, hack, h.runsync_cap hcause, hflags, hcause⟩ }
  | deliver =>
    obtain ⟨hq, -, hack⟩ := hk
    obtain ⟨i, l, hcons⟩ := List.exists_cons_of_ne_nil hq
    exact
      { h with
        ackHeld := fun hack' => absurd (hack.symm.trans hack') Bool.false_ne_true
        offeredIsHead := fun _ => ⟨by simp [syncEffect, hcons], hack⟩
        stoppedFinal := nofun }
  | retire =>
    obtain ⟨-, hidle⟩ := h.ackHeld hk
    have htail : s.q.tail.length ≤ s.q.length := by simp
    exact
      { h with
        queueBound := Nat.le_trans htail h.queueBound
        queuedFilled := fun i hi => h.queuedFilled i (List.mem_of_mem_tail hi)
        ackHeld := nofun
        offeredIsHead := fun hsch => by
          obtain hsch | hsch := hsch <;> exact absurd (hidle.symm.trans hsch) (by decide)
        stoppedFinal := fun hstopped => absurd (hidle.symm.trans hstopped) (by decide) }
  | flagsync choice =>
    exact
      { h with
        stoppedFinal := fun hstopped => by
          obtain ⟨-, -, -, hflags, -⟩ := h.stoppedFinal hstopped
          exact absurd hflags hk
        viewLags := or_copiedFlags_le choice s h.viewLags }
  | quiesce =>
    obtain ⟨hcause, hcap, hq, -, hflags⟩ := hk
    have hack : s.ackPend = false := Bool.eq_false_of_not_eq_true fun hack => (h.ackHeld hack).1 hq
    exact
      { h with
        ackHeld := fun hack' => absurd hq (h.ackHeld hack').1
        offeredIsHead := by rintro (hsch | hsch) <;> cases hsch
        stoppedFinal := fun _ => ⟨hq, hack, hcap, hflags, hcause⟩ }

/-! ## All transitions -/

/-- Every transition keeps the invariants. -/
theorem Move.stateInv {a : Agent} (hmove : Move a s u) (h : StateInv s) : StateInv u := by
  cases hmove with
  | stay => exact h
  | accept w _ hcap hok => exact h.after_acceptWord hcap hok w
  | overflow _ hcap => exact h.after_reportOverflow hcap
  | both w _ hcap hok =>
    exact (h.after_reportOverflow hcap).after_acceptWord ((reportOverflow_cap s).trans hcap) hok w
  | reject | rdata => exact { h with }
  | start _ haccepted =>
    obtain ⟨-, -, hstop, hcfg⟩ := (startAccepted_iff s).1 haccepted
    exact
      { h with
        requestConfigured := fun _ => by simpa [Config.cfgerr] using hcfg
        stopHeld := fun hstop' => absurd (hstop.symm.trans hstop') Bool.false_ne_true }
  | stop =>
    exact
      { h with
        requestConfigured := nofun
        stoppedFinal := fun hstopped => by
          obtain ⟨hq, hack, hcap, hflags, -⟩ := h.stoppedFinal hstopped
          exact ⟨hq, hack, hcap, hflags, .inl rfl⟩
        stopHeld := fun _ => rfl }
  | take _ hpending =>
    obtain ⟨hhead, hack⟩ := h.offeredIsHead (.inl hpending)
    exact
      { h with
        ackHeld := fun hack' => absurd (hack.symm.trans hack') Bool.false_ne_true
        offeredIsHead := fun _ => ⟨hhead, hack⟩
        stoppedFinal := nofun }
  | done _ hdraining =>
    obtain ⟨hhead, -⟩ := h.offeredIsHead (.inr hdraining)
    have hq : s.q ≠ [] := by intro hq; simp [hq] at hhead
    exact
      { h with
        ackHeld := fun _ => ⟨hq, rfl⟩
        offeredIsHead := by rintro (hsch | hsch) <;> cases hsch
        stoppedFinal := nofun }
  | internal k _ hk => exact h.after_syncEffect hk
  | reset => exact stateInv_initial s.cfg s.inputs s.draws

/-- Settles O38: every step is a transition of some agent, and `Move.stateInv` says that each keeps the invariants. -/
theorem everyStepKeepsTheInvariants : Obligations.EveryStepKeepsTheInvariants := by
  unfold Obligations.EveryStepKeepsTheInvariants
  intro s t h hstep
  exact step_keeps (fun s l d h => h.of_model l d) (fun a s u hmove h => hmove.stateInv h) hstep h

end Sys2Proof.Machine
end

section
/-!
The flags and counters (60_exceptions.md R221 to R229) and the order of the queued requests (10_state.md R28,
20_memory.md R73): what every transition keeps of them; and all the invariants together, along every run from RESET.
-/

namespace Sys2Proof.Machine

variable {s u : State}

/-! ## The flags a group raises -/

@[simp] theorem hasFlag_zero (f : PFlag) : hasFlag 0#5 f = false := by simp [hasFlag]

@[simp] theorem hasFlag_mask (g f : PFlag) : hasFlag g.mask f = decide (f = g) := by
  simpa using hasFlag_or_mask 0#5 g f

/-- A flag that is raised unless `p`. -/
theorem hasFlag_unless (p : Prop) [Decidable p] (g f : PFlag) :
    hasFlag (if p then 0#5 else g.mask) f = (decide (f = g) && !decide p) := by
  split
  next h => simp [h]
  next h => simp [h]

/-- Which flags a completed group raises by its reduction (R104): `RED`, for a count above `SMAX`. -/
theorem hasFlag_reduceFlags (cfg : Config) (n : Nat) (f : PFlag) :
    hasFlag (reduceFlags cfg n) f = (decide (f = .red) && !decide (n ≤ cfg.SMAX)) :=
  hasFlag_unless (n ≤ cfg.SMAX) .red f

/-- Which flags a swap raises (41_double_buffer.md R126, R127). -/
theorem hasFlag_swapFlags (cfg : Config) (q : List BufIdx) (f : PFlag) :
    hasFlag (swapFlags cfg q) f =
      match f with
      | .ovf | .red => false
      | .miss => !decide (q = [])
      | .lost => !decide (q.length < cfg.Q)
      | .abt => !decide (q = []) && decide (cfg.missPolicy = .abort) := by
  have hlost := hasFlag_unless (q.length < cfg.Q) .lost f
  have hmiss : hasFlag 0b00010#5 f = decide (f = .miss) := hasFlag_mask .miss f
  have habort : hasFlag 0b10010#5 f = (decide (f = .miss) || decide (f = .abt)) := by
    rw [← hasFlag_mask, ← hasFlag_mask, ← hasFlag_or]
    rfl
  rw [swapFlags, hasFlag_or]
  refine (congrArg _ hlost).trans ?_
  by_cases hq : q = []
  · cases f <;> simp [hq]
  · cases hpolicy : cfg.missPolicy with
    | goOn => rw [if_neg hq, hmiss]; cases f <;> simp [hq]
    | abort => rw [if_neg hq, habort]; cases f <;> simp [hq]

/-! ## Flags and counters -/

theorem satInc_pos {cfg : Config} (h : 0 < cfg.CMAX) (c : Nat) : 0 < satInc cfg c := by
  unfold satInc; split <;> omega

theorem CMAX_pos_of_ok {cfg : Config} (h : cfg.ok = true) : 0 < cfg.CMAX := by
  obtain ⟨-, -, -, -, -, -, hpos, -⟩ := (configOkIsItsSevenTerms cfg).1 h
  have : 1 < 2 ^ cfg.CNTW := Nat.one_lt_two_pow (by omega)
  rw [Config.CMAX]
  omega

/-- No group counts more than `OSR` bits (40_decimator.md R103). -/
theorem StateInv.count_le_OSR (h : StateInv s) (hok : s.cfg.ok = true) (w : Nat) :
    s.acc + popcount s.cfg.W w ≤ s.cfg.OSR :=
  calc s.acc + popcount s.cfg.W w
      ≤ s.wcnt * s.cfg.W + s.cfg.W := Nat.add_le_add h.accBound (popcount_le ..)
    _ = (s.wcnt + 1) * s.cfg.W := (Nat.succ_mul ..).symm
    _ ≤ s.cfg.G * s.cfg.W := Nat.mul_le_mul_right _ (h.wcntRange hok)
    _ ≤ s.cfg.OSR := Nat.div_mul_le_self ..

/-- `RED` is raised only for a count above `SMAX`, and no count exceeds `OSR`. -/
theorem FlagsAgree.reduced_or (h : FlagsAgree s) {n : Nat} (hn : n ≤ s.cfg.OSR)
    (hred : hasFlag (s.flagsP ||| reduceFlags s.cfg n) .red = true) : s.cfg.SMAX < s.cfg.OSR := by
  rw [hasFlag_or, Bool.or_eq_true] at hred
  obtain hred | hred := hred
  · exact h.reduced hred
  · have : s.cfg.SMAX < n := by simpa [hasFlag_reduceFlags] using hred
    omega

theorem FlagsAgree.after_reportOverflow (h : FlagsAgree s) (hok : s.cfg.ok = true) : FlagsAgree (reportOverflow s) := by
  have hpos := satInc_pos (CMAX_pos_of_ok hok)
  rw [reportOverflow_eq]
  exact
    { h with
      ovf := by simp [hpos]
      miss := by simpa [hasFlag_or_mask] using h.miss
      lost := by simpa [hasFlag_or_mask] using h.lost
      abort := by simpa [hasFlag_or_mask] using h.abort
      reduced := by simpa [hasFlag_or_mask] using h.reduced }

theorem FlagsAgree.after_acceptWord (h : FlagsAgree s) (hs : StateInv s) (hok : s.cfg.ok = true) (w : Nat) :
    FlagsAgree (acceptWord w s) := by
  have hn := hs.count_le_OSR hok w
  have hpos := satInc_pos (CMAX_pos_of_ok hok)
  refine acceptWord_cases w s (fun _ => ?within) (fun _ _ => ?stores) (fun _ _ => ?swaps)
  case within => exact { h with }
  case stores =>
    exact
      { h with
        ovf := by simpa [hasFlag_or, hasFlag_reduceFlags] using h.ovf
        miss := by simpa [hasFlag_or, hasFlag_reduceFlags] using h.miss
        lost := by simpa [hasFlag_or, hasFlag_reduceFlags] using h.lost
        abort := by simpa [hasFlag_or, hasFlag_reduceFlags] using h.abort
        reduced := h.reduced_or hn }
  case swaps =>
    obtain ⟨-, -, hQ⟩ := bounds_of_ok hok
    exact
      { h with
        ovf := by simpa [hasFlag_or, hasFlag_reduceFlags, hasFlag_swapFlags] using h.ovf
        miss := by
          by_cases hq : s.q = [] <;> simp [hasFlag_or, hasFlag_reduceFlags, hasFlag_swapFlags, hq, h.miss, hpos]
        lost := by
          by_cases hroom : s.q.length < s.cfg.Q
          · simp [hasFlag_or, hasFlag_reduceFlags, hasFlag_swapFlags, hroom, h.lost]
          · simp [hasFlag_or, hasFlag_reduceFlags, hasFlag_swapFlags, hroom, hpos]
        lostLeMiss := by
          have hle := h.lostLeMiss
          by_cases hq : s.q = []
          · simpa [hq, hQ] using hle
          · simp only [if_neg hq]
            split
            · exact Nat.le_trans hle (le_satInc hs.missBound)
            · exact satInc_mono hle
        abort := by
          simp only [hasFlag_or, hasFlag_reduceFlags, hasFlag_swapFlags]
          intro habt
          obtain habt | ⟨hq, hpolicy⟩ : hasFlag s.flagsP .abt = true ∨ s.q ≠ [] ∧ s.cfg.missPolicy = .abort := by
            simpa using habt
          · simp [h.abort habt]
          · simp [hq, hpolicy]
        reduced := fun hred => h.reduced_or hn <| by
          simpa only [hasFlag_or _ (swapFlags _ _), hasFlag_swapFlags, Bool.or_false] using hred }

theorem flagsAgree_initial (cfg : Config) (l : List Input) (d : Nat) :
    FlagsAgree { State.initial cfg with inputs := l, draws := d } where
  ovf := by simp [State.initial, hasFlag]
  miss := by simp [State.initial, hasFlag]
  lost := by simp [State.initial, hasFlag]
  lostLeMiss := Nat.le_refl _
  abort := by simp [State.initial, hasFlag]
  reduced := by simp [State.initial, hasFlag]

/-- The agreement is about variables of the producer only. -/
theorem FlagsAgree.of_producerSame (h : FlagsAgree s) (hsame : ProducerSame s u) : FlagsAgree u where
  ovf := by rw [hsame.flagsP, hsame.ovfCnt]; exact h.ovf
  miss := by rw [hsame.flagsP, hsame.missCnt]; exact h.miss
  lost := by rw [hsame.flagsP, hsame.lostCnt]; exact h.lost
  lostLeMiss := by rw [hsame.lostCnt, hsame.missCnt]; exact h.lostLeMiss
  abort := by rw [hsame.flagsP, hsame.cfg]; exact h.abort
  reduced := by rw [hsame.flagsP, hsame.cfg]; exact h.reduced

/-- Every transition keeps the agreement: SRC's raise flags with their counters, HOST's and SYNC's write neither. -/
theorem Move.flagsAgree {a : Agent} (hmove : Move a s u) (hs : StateInv s) (h : FlagsAgree s) : FlagsAgree u := by
  cases a with
  | src =>
    cases hmove with
    | stay => exact h
    | accept w _ _ hok => exact h.after_acceptWord hs hok w
    | overflow _ _ hok => exact h.after_reportOverflow hok
    | both w _ hcap hok => exact (h.after_reportOverflow hok).after_acceptWord (hs.after_reportOverflow hcap) hok w
  | host | sync => exact h.of_producerSame (hmove.producerSame (by decide) (by decide))
  | rst =>
    cases hmove with
    | stay => exact h
    | reset => exact flagsAgree_initial s.cfg s.inputs s.draws

/-- Settles O39: the two invariants are carried along every step together. -/
theorem everyStepKeepsFlagsAndCountersAgreeing : Obligations.EveryStepKeepsFlagsAndCountersAgreeing := by
  unfold Obligations.EveryStepKeepsFlagsAndCountersAgreeing
  intro s t hs h hstep
  exact (step_keeps (P := fun s => StateInv s ∧ FlagsAgree s)
    (fun s l d ⟨hs, h⟩ => ⟨hs.of_model l d, { h with }⟩)
    (fun a s u hmove ⟨hs, h⟩ => ⟨hmove.stateInv hs, hmove.flagsAgree hs h⟩) hstep ⟨hs, h⟩).2

/-! ## The order of the requests -/

@[simp] theorem lastRequests_length (a : BufIdx) (n : Nat) : (lastRequests a n).length = n := by
  induction n generalizing a with
  | zero => rfl
  | succ n ih => simp [lastRequests, ih]

/-- Without the oldest of the last requests the others are still the last ones. -/
theorem lastRequests_tail (a : BufIdx) (n : Nat) : (lastRequests a n).tail = lastRequests a (n - 1) := by
  induction n generalizing a with
  | zero => rfl
  | succ n ih =>
    cases n with
    | zero => rfl
    | succ n =>
      have hne : lastRequests a.other (n + 1) ≠ [] := List.ne_nil_of_length_eq_add_one (lastRequests_length ..)
      rw [lastRequests, List.tail_append_of_ne_nil hne, ih, Nat.add_sub_cancel, Nat.add_sub_cancel, lastRequests]

/-- What a word on the P port can do to the queue: nothing; or append the active buffer and swap; or, the queue being
full, drop the request with `LOST` and swap. A swap that finds a request unretired raises `MISS`. -/
inductive QueueMove (s t : State) : Prop where
  | kept (q : t.q = s.q) (active : t.active = s.active)
  | appended (q : t.q = s.q ++ [s.active]) (active : t.active = s.active.other) (cursor : t.cursor = 0)
      (miss : s.q ≠ [] → hasFlag t.flagsP .miss = true)
  | dropped (q : t.q = s.q) (active : t.active = s.active.other) (lost : hasFlag t.flagsP .lost = true)
      (miss : s.q ≠ [] → hasFlag t.flagsP .miss = true)

theorem acceptWord_queueMove (w : Nat) (s : State) : QueueMove s (acceptWord w s) := by
  refine acceptWord_cases w s (fun _ => .kept rfl rfl) (fun _ _ => .kept rfl rfl) (fun _ _ => ?_)
  have hmiss (hq : s.q ≠ []) (v : BitVec 5) : hasFlag (v ||| swapFlags s.cfg s.q) .miss = true := by
    simp [hasFlag_or, hasFlag_swapFlags, hq]
  by_cases hroom : s.q.length < s.cfg.Q
  · exact .appended (if_pos hroom) rfl rfl fun hq => hmiss hq _
  · refine .dropped (if_neg hroom) rfl ?_ fun hq => hmiss hq _
    simp [hasFlag_or, hasFlag_swapFlags, hroom]

/-- No word on the P port clears a flag. -/
theorem acceptWord_flagsLe (w : Nat) (s : State) : flagsLe s.flagsP (acceptWord w s).flagsP := by
  refine acceptWord_cases w s (P := fun t => flagsLe s.flagsP t.flagsP) (fun _ => flagsLe_refl _)
    (fun _ _ => flagsLe_or_right ..) (fun _ _ => ?_)
  exact flagsLe_trans (flagsLe_or_right ..) (flagsLe_or_right ..)

theorem flagsLe_hasFlag {a b : BitVec 5} (h : flagsLe a b) {f : PFlag} (hf : hasFlag a f = true) :
    hasFlag b f = true := by
  rw [← (flagsLe_iff a b).1 h, hasFlag_or, hf, Bool.true_or]

/-- A flag that is not set after a word on the P port was not set before it. -/
theorem hasFlag_false_of_acceptWord {w : Nat} {f : PFlag} (h : hasFlag (acceptWord w s).flagsP f = false) :
    hasFlag s.flagsP f = false := by
  cases hf : hasFlag s.flagsP f with
  | false => rfl
  | true => rw [flagsLe_hasFlag (acceptWord_flagsLe w s) hf] at h; exact h

theorem QueueAlternates.after_acceptWord (h : QueueAlternates s) (w : Nat) : QueueAlternates (acceptWord w s) := by
  intro hlost
  have hq := h (hasFlag_false_of_acceptWord hlost)
  cases acceptWord_queueMove w s with
  | kept hqueue hactive => rw [hqueue, hactive]; exact hq
  | appended hqueue hactive =>
    rw [hqueue, hactive, List.length_append, List.length_singleton, lastRequests, BufIdx_other_other, ← hq]
  | dropped _ _ hlost' => exact absurd (hlost.symm.trans hlost') Bool.false_ne_true

theorem QueueAlternates.after_reportOverflow (h : QueueAlternates s) : QueueAlternates (reportOverflow s) := by
  intro hlost
  rw [reportOverflow_eq, hasFlag_or_mask] at hlost
  exact h (by simpa using hlost)

theorem QueueAlternates.after_syncEffect (h : QueueAlternates s) (k : SyncStep) : QueueAlternates (syncEffect k s) := by
  cases k with
  | runsync | deliver | flagsync | quiesce => exact h
  | retire =>
    intro hlost
    have hq := h hlost
    simp only [syncEffect, retire_q, retire_active, List.length_tail]
    rw [← lastRequests_tail, ← hq]

theorem queueAlternates_initial (cfg : Config) (l : List Input) (d : Nat) :
    QueueAlternates { State.initial cfg with inputs := l, draws := d } := fun _ => rfl

/-- Every transition keeps the order: a swap appends what `lastRequests` expects next, RETIRE takes the oldest off. -/
theorem Move.queueAlternates {a : Agent} (hmove : Move a s u) (h : QueueAlternates s) : QueueAlternates u := by
  cases hmove with
  | stay | reject | start | stop | take | done | rdata => exact h
  | accept w => exact h.after_acceptWord w
  | overflow => exact h.after_reportOverflow
  | both w => exact h.after_reportOverflow.after_acceptWord w
  | internal k => exact h.after_syncEffect k
  | reset => exact queueAlternates_initial s.cfg s.inputs s.draws

/-- Settles O40: the order is kept by every transition, and does not look at the model's own fields. -/
theorem everyStepKeepsRequestsAlternating : Obligations.EveryStepKeepsRequestsAlternating := by
  unfold Obligations.EveryStepKeepsRequestsAlternating
  intro s t h hstep
  exact step_keeps (fun _ _ _ h => h) (fun a s u hmove h => hmove.queueAlternates h) hstep h

theorem NoMissOneRequest.after_acceptWord (h : NoMissOneRequest s) (w : Nat) : NoMissOneRequest (acceptWord w s) := by
  intro hmiss
  have hq := h (hasFlag_false_of_acceptWord hmiss)
  have hempty (hraise : s.q ≠ [] → hasFlag (acceptWord w s).flagsP .miss = true) : s.q = [] :=
    Decidable.byContradiction fun hne => Bool.false_ne_true (hmiss.symm.trans (hraise hne))
  cases acceptWord_queueMove w s with
  | kept hqueue hactive => rw [hqueue, hactive]; exact hq
  | appended hqueue hactive _ hraise =>
    exact .inr (by rw [hqueue, hactive, hempty hraise, BufIdx_other_other]; rfl)
  | dropped hqueue _ _ hraise => exact .inl (by rw [hqueue, hempty hraise])

theorem NoMissOneRequest.after_reportOverflow (h : NoMissOneRequest s) : NoMissOneRequest (reportOverflow s) := by
  intro hmiss
  rw [reportOverflow_eq, hasFlag_or_mask] at hmiss
  exact h (by simpa using hmiss)

theorem NoMissOneRequest.after_syncEffect (h : NoMissOneRequest s) (k : SyncStep) :
    NoMissOneRequest (syncEffect k s) := by
  cases k with
  | runsync | deliver | flagsync | quiesce => exact h
  | retire =>
    intro hmiss
    have htail : s.q.tail = [] := by obtain hq | hq := h hmiss <;> simp [hq]
    exact .inl htail

theorem noMissOneRequest_initial (cfg : Config) (l : List Input) (d : Nat) :
    NoMissOneRequest { State.initial cfg with inputs := l, draws := d } := fun _ => .inl rfl

/-- Every transition keeps the one request: a swap that finds another one unretired raises `MISS`. -/
theorem Move.noMissOneRequest {a : Agent} (hmove : Move a s u) (h : NoMissOneRequest s) : NoMissOneRequest u := by
  cases hmove with
  | stay | reject | start | stop | take | done | rdata => exact h
  | accept w => exact h.after_acceptWord w
  | overflow => exact h.after_reportOverflow
  | both w => exact h.after_reportOverflow.after_acceptWord w
  | internal k => exact h.after_syncEffect k
  | reset => exact noMissOneRequest_initial s.cfg s.inputs s.draws

/-- Settles O41: likewise for the one request. -/
theorem everyStepKeepsOneRequestUntilMiss : Obligations.EveryStepKeepsOneRequestUntilMiss := by
  unfold Obligations.EveryStepKeepsOneRequestUntilMiss
  intro s t h hstep
  exact step_keeps (fun _ _ _ h => h) (fun a s u hmove h => hmove.noMissOneRequest h) hstep h

/-! ## Along every run from RESET -/

/-- Settles O37: the four, each shown for the state after RESET above. -/
theorem resetStateMeetsTheInvariants : Obligations.ResetStateMeetsTheInvariants := by
  unfold Obligations.ResetStateMeetsTheInvariants
  intro cfg l d
  exact ⟨stateInv_initial cfg l d, flagsAgree_initial cfg l d, queueAlternates_initial cfg l d,
    noMissOneRequest_initial cfg l d⟩

/-- Settles O57: the four hold after RESET and every step keeps them, so every run does. -/
theorem reachableStatesMeetTheInvariants : Obligations.ReachableStatesMeetTheInvariants := by
  unfold Obligations.ReachableStatesMeetTheInvariants
  rintro s ⟨cfg, l, d, n, hrun⟩
  refine run_keeps (P := fun s => StateInv s ∧ FlagsAgree s ∧ QueueAlternates s ∧ NoMissOneRequest s) ?_ n hrun
    (resetStateMeetsTheInvariants cfg l d)
  rintro s t ⟨hinv, hflags, halternate, hone⟩ hstep
  exact ⟨everyStepKeepsTheInvariants s t hinv hstep, everyStepKeepsFlagsAndCountersAgreeing s t hinv hflags hstep,
    everyStepKeepsRequestsAlternating s t halternate hstep, everyStepKeepsOneRequestUntilMiss s t hone hstep⟩

end Sys2Proof.Machine
end

section
/-!
Who writes what (10_state.md, 20_memory.md R67, R73, 42_drain_scheduler.md R142, 60_exceptions.md R221, R236): what a
step leaves unchanged, what it can only raise, and how it changes the queue.
-/

namespace Sys2Proof.Machine

variable {s t u : State}

/-- What every move but RESET does between two states and does not depend on the model's own fields, every step but
RESET does. -/
theorem step_relates {R : State → State → Prop} (model : ∀ s u l d, R (withInputs l s) u → R s { u with draws := d })
    (moves : ∀ a s u, a ≠ Agent.rst → Move a s u → R s u) (hstep : step s = .next t) (hrst : notReset s) : R s t := by
  obtain ⟨u, d, hmove, rfl⟩ := step_moves hstep
  exact model s u _ d (moves _ _ u (nextAgent_ne_rst hrst) hmove)

theorem nextAgent_src {w : Nat} (h : s.inputs.head? = some (.src w)) : nextAgent s = .src := by
  obtain ⟨rest, hin⟩ := List.head?_eq_some_iff.1 h
  simp only [nextAgent, hin]

/-- Settles O44: the step is a transition of SRC. -/
theorem pPortNeverWritesConsumerState : Obligations.PPortNeverWritesConsumerState := by
  unfold Obligations.PPortNeverWritesConsumerState
  intro s t w hsrc hstep
  obtain ⟨u, d, hmove, rfl⟩ := step_moves hstep
  rw [nextAgent_src hsrc] at hmove
  exact { hmove.consumerSame with }

/-! ## The buffer memory -/

/-- A word on the P port stores only at (active, cursor). -/
theorem acceptWord_get_other (w : Nat) (s : State) {i : BufIdx} {o : Nat} (h : ¬(i = s.active ∧ o = s.cursor)) :
    (acceptWord w s).buf.get i o = s.buf.get i o := by
  have hput (v : Nat) := Memory.get_put_other s.buf s.active s.cursor v i o h
  exact acceptWord_cases w s (P := fun t => t.buf.get i o = s.buf.get i o) (fun _ => rfl) (fun _ _ => hput _)
    (fun _ _ => hput _)

theorem Move.get_other {a : Agent} (hmove : Move a s u) (ha : a ≠ .rst) {i : BufIdx} {o : Nat}
    (h : ¬(i = s.active ∧ o = s.cursor)) : u.buf.get i o = s.buf.get i o := by
  cases a with
  | src =>
    cases hmove with
    | stay | overflow => rfl
    | accept w => exact acceptWord_get_other w s h
    | both w => exact acceptWord_get_other w (reportOverflow s) h
  | host | sync => rw [(hmove.producerSame (by decide) (by decide)).buf]
  | rst => exact absurd rfl ha

/-- Settles O45: only SRC's transitions store, and those at (active, cursor). -/
theorem storesGoOnlyToTheCursor : Obligations.StoresGoOnlyToTheCursor := by
  unfold Obligations.StoresGoOnlyToTheCursor
  intro s t i o hstep hrst
  exact step_relates (R := fun s t => ¬(i = s.active ∧ o = s.cursor) → t.buf.get i o = s.buf.get i o)
    (fun _ _ _ _ h => h) (fun _ _ _ ha hmove => hmove.get_other ha) hstep hrst

/-- The buffer offered or being drained is not the producer's, until a request has found another one unretired. -/
theorem StateInv.slot_eq_other (h : StateInv s) (hone : NoMissOneRequest s) (hmiss : hasFlag s.flagsP .miss = false)
    (hsch : s.sch = .pending ∨ s.sch = .draining) : s.slot = s.active.other := by
  obtain ⟨hhead, -⟩ := h.offeredIsHead hsch
  obtain hq | hq := hone hmiss
  · simp [hq] at hhead
  · simpa [hq, eq_comm] using hhead

/-- Settles O42: the offered buffer is queued, so it has been filled; it is not the active one, so READ is exact on it
and no store goes to it. -/
theorem readsOfTheDrainAreExactUntilMiss : Obligations.ReadsOfTheDrainAreExactUntilMiss := by
  unfold Obligations.ReadsOfTheDrainAreExactUntilMiss
  intro s off hinv hone hmiss hsch hoff
  have hne : s.slot ≠ s.active := by
    rw [hinv.slot_eq_other hone hmiss hsch]
    exact BufIdx_other_ne s.active
  obtain ⟨hhead, -⟩ := hinv.offeredIsHead hsch
  obtain ⟨v, hv⟩ := Option.isSome_iff_exists.1 (hinv.queuedFilled s.slot (List.mem_of_head? hhead) _ hoff)
  refine ⟨hne, ⟨v, hv, ?read⟩, fun t hstep hrst o => ?kept⟩
  case read => exact (readReturnsTheStoredSample s s.slot off).1 v hoff (fun h => hne h.2) hv
  case kept => exact storesGoOnlyToTheCursor s t s.slot o hstep hrst fun h => hne h.1

/-! ## Flags and counters -/

/-- No flag of either view is cleared, `proto` stays set and no counter falls. -/
structure FlagsKept (s t : State) : Prop where
  flagsP : flagsLe s.flagsP t.flagsP
  flagsC : flagsLe s.flagsC t.flagsC
  proto : s.proto = true → t.proto = true
  ovfCnt : s.ovfCnt ≤ t.ovfCnt
  missCnt : s.missCnt ≤ t.missCnt
  lostCnt : s.lostCnt ≤ t.lostCnt

theorem FlagsKept.refl (s : State) : FlagsKept s s :=
  ⟨flagsLe_refl _, flagsLe_refl _, id, Nat.le_refl _, Nat.le_refl _, Nat.le_refl _⟩

theorem FlagsKept.trans (h : FlagsKept s t) (h' : FlagsKept t u) : FlagsKept s u where
  flagsP := flagsLe_trans h.flagsP h'.flagsP
  flagsC := flagsLe_trans h.flagsC h'.flagsC
  proto := h'.proto ∘ h.proto
  ovfCnt := Nat.le_trans h.ovfCnt h'.ovfCnt
  missCnt := Nat.le_trans h.missCnt h'.missCnt
  lostCnt := Nat.le_trans h.lostCnt h'.lostCnt

theorem StateInv.reportOverflow_flagsKept (h : StateInv s) : FlagsKept s (reportOverflow s) :=
  { FlagsKept.refl s with
    flagsP := flagsLe_or_right ..
    ovfCnt := le_satInc h.ovfBound }

theorem StateInv.acceptWord_flagsKept (h : StateInv s) (w : Nat) : FlagsKept s (acceptWord w s) := by
  have hflags := acceptWord_flagsLe w s
  refine acceptWord_cases w s (P := fun t => flagsLe s.flagsP t.flagsP → FlagsKept s t) ?_ ?_ ?_ hflags
  · exact fun _ _ => { FlagsKept.refl s with }
  · exact fun _ _ hflags => { FlagsKept.refl s with flagsP := hflags }
  · exact fun _ _ hflags =>
      { FlagsKept.refl s with
        flagsP := hflags
        missCnt := by dsimp only; split <;> [exact Nat.le_refl _; exact le_satInc h.missBound]
        lostCnt := by dsimp only; split <;> [exact Nat.le_refl _; exact le_satInc h.lostBound] }

theorem syncEffect_flagsKept (k : SyncStep) (s : State) : FlagsKept s (syncEffect k s) := by
  cases k with
  | runsync | deliver | retire | quiesce => exact { FlagsKept.refl s with }
  | flagsync => exact { FlagsKept.refl s with flagsC := flagsLe_or_right .. }

theorem Move.flagsKept {a : Agent} (hmove : Move a s u) (ha : a ≠ .rst) (h : StateInv s) : FlagsKept s u := by
  cases hmove with
  | stay => exact FlagsKept.refl s
  | accept w => exact h.acceptWord_flagsKept w
  | overflow => exact h.reportOverflow_flagsKept
  | both w _ hcap => exact h.reportOverflow_flagsKept.trans ((h.after_reportOverflow hcap).acceptWord_flagsKept w)
  | reject => exact { FlagsKept.refl s with proto := fun _ => rfl }
  | start | stop | take | done | rdata => exact { FlagsKept.refl s with }
  | internal k => exact syncEffect_flagsKept k s
  | reset => exact absurd rfl ha

/-- Settles O46: `FlagsKept` lists the claim, and every transition but RESET keeps it. -/
theorem flagsAreClearedOnlyByReset : Obligations.FlagsAreClearedOnlyByReset := by
  unfold Obligations.FlagsAreClearedOnlyByReset
  intro s t hinv hstep hrst
  obtain ⟨hP, hC, hproto, hovf, hmiss, hlost⟩ := step_relates (R := fun s t => StateInv s → FlagsKept s t)
    (fun s _ l _ h hinv => { h (hinv.of_model l s.draws) with })
    (fun _ _ _ ha hmove hinv => hmove.flagsKept ha hinv) hstep hrst hinv
  exact ⟨hP, hC, hproto, hovf, hmiss, hlost⟩

/-! ## The queue -/

/-- A move that is not SRC's leaves the queue alone or takes its oldest entry off on an acknowledge. -/
theorem Move.queue_cases {a : Agent} (hmove : Move a s u) (hsrc : a ≠ .src) (hrst : a ≠ .rst) :
    u.q = s.q ∨ s.ackPend = true ∧ u.ackPend = false ∧ u.q = s.q.tail := by
  cases hmove with
  | accept | overflow | both => exact absurd rfl hsrc
  | reset => exact absurd rfl hrst
  | stay | reject | start | stop | take | done | rdata => exact .inl rfl
  | internal k _ hk =>
    cases k with
    | runsync | deliver | flagsync | quiesce => exact .inl rfl
    | retire => exact .inr ⟨hk, rfl, rfl⟩

/-- A move of SRC leaves the queue alone or appends the request of a swap. -/
theorem Move.src_queue_cases (hmove : Move .src s u) :
    u.q = s.q ∨ u.q = s.q ++ [s.active] ∧ u.active = s.active.other ∧ u.cursor = 0 := by
  have accepts (w : Nat) (s : State) : (acceptWord w s).q = s.q ∨ (acceptWord w s).q = s.q ++ [s.active] ∧
      (acceptWord w s).active = s.active.other ∧ (acceptWord w s).cursor = 0 := by
    cases acceptWord_queueMove w s with
    | kept hq | dropped hq => exact .inl hq
    | appended hq hactive hcursor => exact .inr ⟨hq, hactive, hcursor⟩
  cases hmove with
  | stay | overflow => exact .inl rfl
  | accept w => exact accepts w s
  | both w => exact accepts w (reportOverflow s)

theorem head?_of_nextAgent_src (h : nextAgent s = .src) : ∃ w, s.inputs.head? = some (.src w) := by
  unfold nextAgent at h
  split at h <;> simp_all

/-- Settles O48: SRC appends, RETIRE removes, no other transition but RESET touches the queue. -/
theorem queueIsFirstInFirstOut : Obligations.QueueIsFirstInFirstOut := by
  unfold Obligations.QueueIsFirstInFirstOut
  intro s t hstep hrst
  obtain ⟨u, d, hmove, rfl⟩ := step_moves hstep
  by_cases hsrc : nextAgent s = .src
  · rw [hsrc] at hmove
    obtain hq | ⟨hq, hactive, hcursor⟩ := hmove.src_queue_cases
    · exact .inl hq
    · exact .inr (.inl ⟨hq, hactive, hcursor, head?_of_nextAgent_src hsrc⟩)
  · exact (hmove.queue_cases hsrc (nextAgent_ne_rst hrst)).imp id .inr

end Sys2Proof.Machine
end

section
/-!
After the capture (43_control_status.md R180, R181, 60_exceptions.md R229, 70_reset_and_hazards.md R261, R264): what
STOPPED fixes, what an abort ends, and that no second START is accepted.
-/

namespace Sys2Proof.Machine

variable {s t u : State}

/-- Settles O52: the active buffer is written below the cursor, and in STOPPED the producer does not own it. -/
theorem residualSamplesReadExactly : Obligations.ResidualSamplesReadExactly := by
  unfold Obligations.ResidualSamplesReadExactly
  intro s off hinv hstopped hoff
  obtain ⟨v, hv⟩ := Option.isSome_iff_exists.1 (hinv.filledBelow _ hoff)
  obtain ⟨hlt, -⟩ := hinv.samplesFit _ _ _ hv
  have hcap : s.cap ≠ true := fun hcap => hinv.not_stopped hcap hstopped
  exact ⟨v, hv, (readReturnsTheStoredSample s s.active off).1 v hlt (fun h => hcap h.1) hv⟩

/-! ## STOPPED -/

/-- In STOPPED no internal step is enabled but RUNSYNC, after an abort: a STOP has withdrawn the run request, and
without an abort the producer has seen it, since it does not capture. -/
theorem StateInv.stopped_enabled (h : StateInv s) (hstopped : s.sch = .stopped) {k : SyncStep}
    (hk : syncEnabled k s = true) : k = .runsync ∧ s.abortP = true := by
  obtain ⟨hq, hack, hcap, hflags, hcause⟩ := h.stoppedFinal hstopped
  rw [syncEnabled_iff] at hk
  cases k with
  | runsync =>
    obtain ⟨hdiffer, -⟩ := hk
    refine ⟨rfl, Decidable.byContradiction fun habort => hdiffer ?_⟩
    have hreq : s.runReq = false := h.stopHeld (hcause.resolve_right habort)
    have hrun : s.runP = false := by simpa [State.cap, habort] using hcap
    rw [hreq, hrun]
  | deliver =>
    obtain ⟨hne, -⟩ := hk
    exact absurd hq hne
  | retire => exact absurd (hack.symm.trans hk) Bool.false_ne_true
  | flagsync => exact absurd hflags hk
  | quiesce =>
    obtain ⟨-, -, -, hidle, -⟩ := hk
    exact absurd (hidle.symm.trans hstopped) (by decide)

/-- What can happen in STOPPED: a rejected or a reading command of HOST; a STOP where it still writes; RUNSYNC after an
abort (assumption 11). -/
inductive StoppedMove (s u : State) : Prop where
  | reads (rdata : Word) (proto : Bool) (eq : u = { s with rdata := rdata, proto := proto })
  | stop (moving : s.isFrozen = false) (eq : u = { s with runReq := false, stopReq := true })
  | runsync (enabled : syncEnabled .runsync s = true) (eq : u = { s with runP := s.runReq })

theorem Move.of_stopped {a : Agent} (hmove : Move a s u) (ha : a ≠ .rst) (h : StateInv s)
    (hstopped : s.sch = .stopped) : StoppedMove s u := by
  cases hmove with
  | stay => exact .reads s.rdata s.proto rfl
  | reject => exact .reads s.rdata true rfl
  | rdata v => exact .reads v s.proto rfl
  | stop _ hmoving => exact .stop hmoving rfl
  | internal k _ hk =>
    obtain ⟨rfl, -⟩ := h.stopped_enabled hstopped hk
    exact .runsync hk rfl
  | accept _ _ hcap | overflow _ hcap | both _ _ hcap => exact absurd hstopped (h.not_stopped hcap)
  | start _ haccepted =>
    obtain ⟨hidle, -⟩ := (startAccepted_iff s).1 haccepted
    exact absurd (hidle.symm.trans hstopped) (by decide)
  | take _ hpending => exact absurd (hpending.symm.trans hstopped) (by decide)
  | done _ hdraining => exact absurd (hdraining.symm.trans hstopped) (by decide)
  | reset => exact absurd rfl ha

/-- A step in STOPPED is such a move, from the state with its pending step taken off. -/
theorem step_of_stopped (h : StateInv s) (hstopped : s.sch = .stopped) (hstep : step s = .next t) (hrst : notReset s) :
    ∃ u d, StoppedMove (withInputs s.inputs.tail s) u ∧ t = { u with draws := d } := by
  obtain ⟨u, d, hmove, ht⟩ := step_moves hstep
  exact ⟨u, d, hmove.of_stopped (nextAgent_ne_rst hrst) (h.of_model _ s.draws) hstopped, ht⟩

/-- Settles O50: none of the moves in STOPPED writes what is listed; that `cap` is false in STOPPED is an invariant. -/
theorem stoppedIsTerminal : Obligations.StoppedIsTerminal := by
  unfold Obligations.StoppedIsTerminal
  intro s t hinv hstopped hstep hrst
  have hkept : t.sch = .stopped ∧ ProducerSame s t ∧ t.flagsC = s.flagsC := by
    obtain ⟨u, d, hmove, rfl⟩ := step_of_stopped hinv hstopped hstep hrst
    cases hmove with
    | reads _ _ heq | stop _ heq | runsync _ heq =>
      subst heq
      exact ⟨hstopped, by constructor <;> rfl, rfl⟩
  obtain ⟨hsch, hsame, hflags⟩ := hkept
  obtain ⟨hq, -, hcap, -⟩ := (everyStepKeepsTheInvariants s t hinv hstep).stoppedFinal hsch
  exact ⟨hsch, hcap, hsame, hq, hflags⟩

/-- In STOPPED under the reading `frozen`, without an abort, or once the producer has seen a STOP, nothing of the
control state is left to change. -/
theorem StateInv.stopped_settled (h : StateInv s) (hstopped : s.sch = .stopped)
    (hcase : s.cfg.stoppedReading = .frozen ∨ s.abortP = false ∨ s.stopReq = true ∧ s.runP = false) :
    (∀ k, syncEnabled k s = false) ∧ (s.isFrozen = true ∨ s.runReq = false ∧ s.stopReq = true) := by
  have hcause : s.isFrozen = true ∨ s.abortP = false ∨ s.runP = s.runReq := by
    obtain hreading | habort | ⟨hstop, hrun⟩ := hcase
    · exact .inl ((isFrozen_iff s).2 ⟨hstopped, hreading⟩)
    · exact .inr (.inl habort)
    · exact .inr (.inr (hrun.trans (h.stopHeld hstop).symm))
  refine ⟨fun k => Bool.eq_false_of_not_eq_true fun hk => ?disabled, ?stop⟩
  case disabled =>
    obtain ⟨rfl, habort⟩ := h.stopped_enabled hstopped hk
    obtain ⟨hdiffer, hmoving⟩ := (syncEnabled_iff .runsync s).1 hk
    obtain hfrozen | hno | heq := hcause
    · exact Bool.false_ne_true (hmoving.symm.trans hfrozen)
    · exact Bool.false_ne_true (hno.symm.trans habort)
    · exact hdiffer heq
  case stop =>
    obtain ⟨-, -, -, -, hwhy⟩ := h.stoppedFinal hstopped
    obtain hreading | habort | ⟨hstop, -⟩ := hcase
    · exact .inl ((isFrozen_iff s).2 ⟨hstopped, hreading⟩)
    · have hstop : s.stopReq = true := hwhy.resolve_right (by rw [habort]; decide)
      exact .inr ⟨h.stopHeld hstop, hstop⟩
    · exact .inr ⟨h.stopHeld hstop, hstop⟩

/-- Settles O51: the three moves in STOPPED write only what is listed; where no internal step is enabled and STOP writes
what stands there already, the control state stays. -/
theorem stoppedRunIsFinal : Obligations.StoppedRunIsFinal := by
  unfold Obligations.StoppedRunIsFinal
  intro s t hinv hstopped hstep hrst
  obtain ⟨u, d, hmove, rfl⟩ := step_of_stopped hinv hstopped hstep hrst
  refine ⟨?changes, fun k hk => hinv.stopped_enabled hstopped hk, fun hcase => ?settled⟩
  case changes =>
    cases hmove with
    | reads _ _ heq | stop _ heq | runsync _ heq => subst heq; rfl
  case settled =>
    obtain ⟨hdisabled, hstop⟩ := hinv.stopped_settled hstopped hcase
    refine ⟨hdisabled, ?_⟩
    cases hmove with
    | reads _ _ heq => subst heq; exact ⟨rfl, rfl, rfl⟩
    | stop hmoving heq =>
      subst heq
      obtain hfrozen | ⟨hreq, hstop⟩ := hstop
      · exact absurd (hmoving.symm.trans hfrozen) Bool.false_ne_true
      · exact ⟨hreq.symm, hstop.symm, rfl⟩
    | runsync hk => exact absurd ((hdisabled .runsync).symm.trans hk) Bool.false_ne_true

/-! ## An abort -/

/-- A producer that does not capture is not moved by SRC. -/
theorem Move.producerSame_of_not_cap {a : Agent} (hmove : Move a s u) (ha : a ≠ .rst) (hcap : s.cap = false) :
    ProducerSame s u := by
  by_cases hsrc : a = .src
  · subst hsrc
    cases hmove with
    | stay => constructor <;> rfl
    | accept _ _ hcap' | overflow _ hcap' | both _ _ hcap' => exact absurd (hcap.symm.trans hcap') Bool.false_ne_true
  · exact hmove.producerSame hsrc ha

/-- Settles O53: `ABT` is a flag of the producer, and while it is set SRC's words are ignored. -/
theorem abortEndsCaptureUntilReset : Obligations.AbortEndsCaptureUntilReset := by
  unfold Obligations.AbortEndsCaptureUntilReset
  intro s t habort hstep hrst
  have hsame : ProducerSame s t := step_relates (R := fun s t => s.abortP = true → ProducerSame s t)
    (fun _ _ _ d h habort => (h habort).of_model d)
    (fun _ _ _ ha hmove habort => hmove.producerSame_of_not_cap ha (cap_of_abort habort)) hstep hrst habort
  have habort' : t.abortP = true := by rw [State.abortP, hsame.flagsP]; exact habort
  exact ⟨habort', cap_of_abort habort', hsame⟩

/-! ## One capture per RESET -/

/-- Once START has been accepted or STOP has come, one of the two requests stands. -/
theorem Move.keeps_request {a : Agent} (hmove : Move a s u) (ha : a ≠ .rst) (h : s.runReq = true ∨ s.stopReq = true) :
    u.runReq = true ∨ u.stopReq = true := by
  cases a with
  | src => rwa [hmove.consumerSame.runReq, hmove.consumerSame.stopReq]
  | host =>
    cases hmove with
    | stay | reject | take | done | rdata => exact h
    | start => exact .inl rfl
    | stop => exact .inr rfl
  | sync =>
    cases hmove with
    | stay => exact h
    | internal k =>
      cases k with
      | runsync | deliver | retire | flagsync | quiesce => exact h
  | rst => exact absurd rfl ha

/-- Settles O54: a standing request is one of START's causes of rejection. -/
theorem oneCapturePerReset : Obligations.OneCapturePerReset := by
  unfold Obligations.OneCapturePerReset
  intro s t h
  refine ⟨exec_start_rejected ((startAccepted_eq_false_iff s).2 (.inr (h.imp id .inl))), fun hstep hrst => ?_⟩
  exact step_relates
    (R := fun s t => s.runReq = true ∨ s.stopReq = true → t.runReq = true ∨ t.stopReq = true)
    (fun _ _ _ _ h => h) (fun _ _ _ ha hmove => hmove.keeps_request ha) hstep hrst h

end Sys2Proof.Machine
end

section
/-!
The crossing logic (30_encoding.md R92, 43_control_status.md R172, R176 to R178): what a turn of SYNC does for an
internal step that is enabled and for one that is not, and what a quiet environment does; and STOP.
-/

namespace Sys2Proof.Machine

variable {s t : State} {rest : List Input}

/-- The two conditions of the reading `frozen`, as the claims write them (assumption 11). -/
theorem isFrozen_eq_decide (s : State) :
    s.isFrozen = decide (s.sch = .stopped ∧ s.cfg.stoppedReading = .frozen) := by
  simp [State.isFrozen]

/-- Settles O29: STOP's guard is the reading `frozen`. -/
theorem stopWithdrawsTheRunRequest : Obligations.StopWithdrawsTheRunRequest := by
  unfold Obligations.StopWithdrawsTheRunRequest
  intro s
  simp only [exec, execStop, isFrozen_eq_decide, decide_eq_true_eq]

/-- Settles O12: the negations of R92's conditions. -/
theorem disabledInternalStepsChangeNothing : Obligations.DisabledInternalStepsChangeNothing := by
  unfold Obligations.DisabledInternalStepsChangeNothing
  intro s rest k hin hcond
  refine step_sync_disabled hin (Bool.eq_false_of_not_eq_true fun hk => ?_)
  rw [syncEnabled_iff] at hk
  cases k with
  | runsync =>
    obtain ⟨hdiffer, hmoving⟩ := hk
    obtain heq | hfrozen := hcond
    · exact hdiffer heq
    · exact absurd (hmoving.symm.trans ((isFrozen_iff s).2 hfrozen)) Bool.false_ne_true
  | deliver =>
    obtain ⟨hq, hidle, hack⟩ := hk
    obtain hempty | hbusy | hpend := hcond
    · exact hq hempty
    · exact hbusy hidle
    · exact absurd (hack.symm.trans hpend) Bool.false_ne_true
  | retire => exact absurd (hcond.symm.trans hk) Bool.false_ne_true
  | flagsync => exact hk hcond
  | quiesce => exact hcond hk

/-- Settles O7: RUNSYNC is enabled and copies; or the two already agree; or the reading `frozen` holds it off. -/
theorem runsyncCarriesTheRunRequest : Obligations.RunsyncCarriesTheRunRequest := by
  unfold Obligations.RunsyncCarriesTheRunRequest
  intro s rest hin
  by_cases hfrozen : s.sch = .stopped ∧ s.cfg.stoppedReading = .frozen
  · rw [disabledInternalStepsChangeNothing s rest .runsync hin (.inr hfrozen), if_pos hfrozen]
  · rw [if_neg hfrozen]
    by_cases hagree : s.runP = s.runReq
    · rw [disabledInternalStepsChangeNothing s rest .runsync hin (.inl hagree), ← hagree]
    · have hmoving : s.isFrozen = false := by rw [isFrozen_eq_decide]; exact decide_eq_false hfrozen
      exact step_sync_enabled hin ((syncEnabled_iff .runsync s).2 ⟨hagree, hmoving⟩)

/-- Settles O11: the five conditions are QUIESCE's. -/
theorem quiesceEntersStopped : Obligations.QuiesceEntersStopped := by
  unfold Obligations.QuiesceEntersStopped
  intro s rest hin hcause hcap hq hidle hflags
  exact step_sync_enabled hin ((syncEnabled_iff .quiesce s).2 ⟨hcause, hcap, hq, hidle, hflags⟩)

/-! ## FLAGSYNC -/

/-- Only missing bits are copied. -/
theorem copiedFlags_le (choice : BitVec 5) (s : State) : flagsLe (copiedFlags choice s) (missingFlags s) := by
  unfold copiedFlags
  split
  · exact flagsLe_refl _
  · simp [flagsLe, BitVec.and_assoc]

/-- Some bit is copied when one is missing. -/
theorem copiedFlags_ne_zero (choice : BitVec 5) (h : missingFlags s ≠ 0#5) : copiedFlags choice s ≠ 0#5 := by
  unfold copiedFlags
  split <;> assumption

/-- A non-empty proposal of missing bits is copied as it is. -/
theorem copiedFlags_of_le {choice : BitVec 5} (hne : choice ≠ 0#5) (hle : flagsLe choice (missingFlags s)) :
    copiedFlags choice s = choice := by
  have hand : ∀ a b : BitVec 5, a ||| b = b → a &&& b = a := by decide
  rw [copiedFlags, hand _ _ ((flagsLe_iff ..).1 hle), if_neg hne]

/-- Where a bit is missing the two views differ. -/
theorem flagsync_enabled_of_missing (choice : BitVec 5) (h : missingFlags s ≠ 0#5) :
    syncEnabled (.flagsync choice) s = true := by
  refine (syncEnabled_iff _ s).2 fun heq => h ?_
  simp [missingFlags, heq]

theorem step_flagsync {choice : BitVec 5} (hin : s.inputs = .sync (.flagsync choice) :: rest)
    (h : missingFlags s ≠ 0#5) :
    step s = .next { s with inputs := rest, flagsC := s.flagsC ||| copiedFlags choice s } :=
  step_sync_enabled hin (flagsync_enabled_of_missing choice h)

/-- Settles O10: the set `S` is `copiedFlags`. -/
theorem flagsyncCopiesMissingFlags : Obligations.FlagsyncCopiesMissingFlags := by
  unfold Obligations.FlagsyncCopiesMissingFlags
  intro s rest choice hin
  refine ⟨fun hmissing => ?some, fun hne hle => ?every⟩
  case some =>
    exact ⟨copiedFlags choice s, copiedFlags_ne_zero choice hmissing, copiedFlags_le choice s,
      step_flagsync hin hmissing⟩
  case every =>
    have hmissing : missingFlags s ≠ 0#5 := by
      intro hzero
      have hle' : flagsLe choice (missingFlags s) := hle
      rw [hzero, flagsLe_iff, BitVec.or_zero] at hle'
      exact hne hle'
    rw [step_flagsync hin hmissing, copiedFlags_of_le hne hle]

/-! ## The quiet environment -/

theorem step_quiet (hin : s.inputs = []) : step s = .next (quietStep s) := by
  simp only [step, hin]

/-- No step is listed exactly when none is enabled; the operand of the listed FLAGSYNC does not matter. -/
theorem enabledSteps_eq_nil_iff (s : State) : enabledSteps s = [] ↔ ∀ k, syncEnabled k s = false := by
  rw [enabledSteps, List.filter_eq_nil_iff]
  refine ⟨fun h k => ?_, fun h k _ => by simp [h k]⟩
  cases k with
  | runsync | deliver | retire | quiesce => exact Bool.eq_false_of_not_eq_true (h _ (by simp))
  | flagsync => exact Bool.eq_false_of_not_eq_true (h (.flagsync (Config.freeFlags s.draws)) (by simp))

/-- Whatever the number, an element is picked from a list that has one. -/
theorem pick_mem {β : Type} (n : Nat) {l : List β} (h : l ≠ []) : ∃ k ∈ l, pick n l = some k := by
  have hlt : n % l.length < l.length := Nat.mod_lt _ (List.length_pos_of_ne_nil h)
  exact ⟨_, List.getElem_mem hlt, List.getElem?_eq_getElem hlt⟩

/-- When a step is enabled, an enabled one is taken. -/
theorem quietStep_enabled (h : ∃ k, syncEnabled k s = true) :
    ∃ k, syncEnabled k s = true ∧ quietStep s = { syncEffect k s with draws := s.draws + 1 } := by
  have hne : enabledSteps s ≠ [] := by
    obtain ⟨k, hk⟩ := h
    intro hnil
    exact Bool.false_ne_true (((enabledSteps_eq_nil_iff s).1 hnil k).symm.trans hk)
  obtain ⟨k, hmem, hpick⟩ := pick_mem (Config.freeChoice s.draws) hne
  exact ⟨k, (List.mem_filter.1 hmem).2, by rw [quietStep, hpick]⟩

theorem quietStep_disabled (h : ∀ k, syncEnabled k s = false) : quietStep s = s := by
  rw [quietStep, (enabledSteps_eq_nil_iff s).2 h, pick, List.getElem?_nil]

/-- Settles O14: the step is a quiet one, which takes an enabled step or, where there is none, changes nothing. -/
theorem quietEnvironmentRunsAnEnabledStep : Obligations.QuietEnvironmentRunsAnEnabledStep := by
  unfold Obligations.QuietEnvironmentRunsAnEnabledStep
  intro s hin
  rw [step_quiet hin]
  refine ⟨fun h => ?_, fun h => by rw [quietStep_disabled h]⟩
  obtain ⟨k, hk, hquiet⟩ := quietStep_enabled h
  exact ⟨k, hk, by rw [hquiet]⟩

end Sys2Proof.Machine
end

section
/-!
More of the decimator (00_scope.md R10, R11, 40_decimator.md R103, R106): the population count, the gate of the P
operations, and groups that count alike; and that no step is refused where SRC presents P words (R80, R260).
-/

namespace Sys2Proof.Machine

variable {s : State}

/-- Settles O15: bit `n` is counted after the bits below it. -/
theorem popcountCountsSetBits : Obligations.PopcountCountsSetBits := by
  unfold Obligations.PopcountCountsSetBits
  intro n v
  induction n with
  | zero => rfl
  | succ n ih =>
    rw [popcount, ih, List.range_succ, List.filter_append, List.length_append]
    cases hbit : v.testBit n <;> simp [hbit]

theorem whenCapturing_of_not_cap (effect : State → State) (hcap : s.cap = false) :
    whenCapturing effect s = .next s := by
  simp [whenCapturing, hcap]

/-- Settles O17: all three pass the gate of `cap`. -/
theorem producerPortIsIgnoredUnlessCapturing : Obligations.ProducerPortIsIgnoredUnlessCapturing := by
  unfold Obligations.ProducerPortIsIgnoredUnlessCapturing
  intro s w hcap
  exact ⟨whenCapturing_of_not_cap _ hcap, whenCapturing_of_not_cap _ hcap,
    whenCapturing_of_not_cap (fun t => acceptWord w (reportOverflow t)) hcap⟩

theorem whenCapturing_of_not_ok (effect : State → State) (hcap : s.cap = true) (hok : s.cfg.ok = false) :
    whenCapturing effect s = .refused .configurationError := by
  simp [whenCapturing, hcap, hok]

/-- Settles O21: all three pass the gate of `ConfigOK`. -/
theorem failingConfigurationRefusesObeyedWords : Obligations.FailingConfigurationRefusesObeyedWords := by
  unfold Obligations.FailingConfigurationRefusesObeyedWords
  intro s w hcap hok
  exact ⟨whenCapturing_of_not_ok _ hcap hok, whenCapturing_of_not_ok _ hcap hok,
    whenCapturing_of_not_ok (fun t => acceptWord w (reportOverflow t)) hcap hok⟩

/-- A whole group leaves what its bit count alone says. -/
theorem run_wholeGroup {ws : List Nat} (rest : List Input) (hcap : s.cap = true) (hok : s.cfg.ok = true)
    (hwcnt : s.wcnt = 0) (hacc : s.acc = 0) (hlen : ws.length = s.cfg.G) (hws : ∀ w ∈ ws, w < 2 ^ s.cfg.W) :
    run s.cfg.G { s with inputs := groupLines s.cfg ws ++ rest } =
      .next (withInputs rest (completeGroup (groupCount s.cfg ws) s)) := by
  have hopen : s.wcnt < s.cfg.G := hwcnt ▸ (bounds_of_ok hok).1
  have hrun := run_groupLines (s := { s with inputs := groupLines s.cfg ws ++ rest }) hcap hok hopen
    (by simp only; omega) hws rfl
  have hgroup := completeGroup_of_partial (groupCount s.cfg ws) s.acc s.wcnt (groupLines s.cfg ws ++ rest) s
  rw [hlen] at hrun
  simp only [hacc, Nat.zero_add] at hrun hgroup ⊢
  rw [hrun, hgroup]
  rfl

/-- Settles O23: both groups leave what their common count says. -/
theorem groupsOfEqualBitCountActAlike : Obligations.GroupsOfEqualBitCountActAlike := by
  unfold Obligations.GroupsOfEqualBitCountActAlike
  intro s ws ws' rest hcap hok hwcnt hacc hlen hlen' hws hws' hcount
  have hcount : groupCount s.cfg ws = groupCount s.cfg ws' := hcount
  refine ⟨_, run_wholeGroup rest hcap hok hwcnt hacc hlen hws, ?_⟩
  rw [run_wholeGroup rest hcap hok hwcnt hacc hlen' hws', hcount]

/-! ## Every step completes -/

theorem whenCapturing_completes (effect : State → State) (h : s.cap = true → s.cfg.ok = true) :
    ∃ t, whenCapturing effect s = .next t := by
  cases hcap : s.cap with
  | false => exact ⟨s, whenCapturing_of_not_cap effect hcap⟩
  | true => exact ⟨_, whenCapturing_of_ok (h hcap) effect⟩

/-- Every operation completes, because under the invariants a failing configuration does not capture. -/
theorem StateInv.exec_completes (h : StateInv s) (i : Instr) : ∃ t, exec i s = .next t := by
  have hok : s.cap = true → s.cfg.ok = true := fun hcap => h.captureConfigured ((cap_iff s).1 hcap).1
  cases i with
  | push | ovf => exact whenCapturing_completes _ hok
  | pushovf w => exact whenCapturing_completes (fun t => acceptWord w (reportOverflow t)) hok
  | idle | nop | start | stop | take | done | rdstat | rsvd7 => exact ⟨_, rfl⟩
  | read idx off =>
    obtain ⟨t, ht, -⟩ := exec_read_proto idx off s
    exact ⟨t, ht⟩

theorem StateInv.runWord_completes (h : StateInv s) {w : PortWord} {i : Instr} (hdecode : decode s.cfg w = .ok i) :
    ∃ t, runWord w s = .next t := by
  rw [runWord_of_decode hdecode]
  exact h.exec_completes i

/-- Settles O56: the word that is pending decodes, and its operation completes. -/
theorem noStepIsRefused : Obligations.NoStepIsRefused := by
  unfold Obligations.NoStepIsRefused
  intro s hinv hwidth
  obtain ⟨hcword, hpword, -⟩ := everyPortWordDecodes s.cfg
  unfold step
  split
  next => exact ⟨_, rfl⟩
  next w rest hin =>
    obtain ⟨i, hdecode, -⟩ := hpword w (hwidth w (by rw [hin]; rfl))
    exact (hinv.of_model rest s.draws).runWord_completes hdecode
  next w rest hin =>
    obtain ⟨i, hdecode, -⟩ := hcword w
    exact (hinv.of_model rest s.draws).runWord_completes hdecode
  next => exact ⟨_, rfl⟩
  next => exact ⟨_, rfl⟩

end Sys2Proof.Machine
end

section
/-!
A consumer that serves the queue (42_drain_scheduler.md R142, R149): rounds of DELIVER, TAKE, DONE, RETIRE.
-/

namespace Sys2Proof.Machine

variable {s : State} {i : BufIdx} {l : List BufIdx} {rest : List Input}

/-- The step of a trace line executes its operation (30_encoding.md R89). -/
theorem step_line {op : Instr} (hwf : wellFormed s.cfg op = true) (hin : s.inputs = line s.cfg op :: rest) :
    step s = exec op { s with inputs := rest } := by
  have hdecode := encodedInstructionsDecodeBack s.cfg op hwf
  obtain ⟨hsrc, hhost⟩ := stepRunsTheDecodedPortWord s rest op
  rw [line] at hin
  cases hword : encode s.cfg op with
  | p w => rw [hword] at hin hdecode; exact hsrc w hin hdecode
  | c w => rw [hword] at hin hdecode; exact hhost w hin hdecode

/-- The trace lines of one round. -/
def roundLines (cfg : Config) : List Input := [.sync .deliver, line cfg .take, line cfg .done, .sync .retire]

theorem step_deliver_turn (hin : s.inputs = .sync .deliver :: rest) (hq : s.q = i :: l) (hidle : s.sch = .idle)
    (hack : s.ackPend = false) : step s = .next { s with inputs := rest, slot := i, sch := .pending } := by
  obtain ⟨t, hstep, ht, -⟩ := deliverOffersTheQueueHead s rest i l hin hq hidle hack
  rw [hstep, ht]

theorem step_take_line (hin : s.inputs = line s.cfg .take :: rest) (hpending : s.sch = .pending) :
    step s = .next { s with inputs := rest, sch := .draining } := by
  rw [step_line rfl hin, takeAcceptsThePendingRequest, if_pos hpending]

theorem step_done_line (hin : s.inputs = line s.cfg .done :: rest) (hdraining : s.sch = .draining) :
    step s = .next { s with inputs := rest, sch := .idle, ackPend := true } := by
  rw [step_line rfl hin, doneFinishesTheDrain, if_pos hdraining]

/-- One round offers the oldest request, drains it and retires it. -/
theorem run_roundLines (hin : s.inputs = roundLines s.cfg ++ rest) (hq : s.q = i :: l) (hidle : s.sch = .idle)
    (hack : s.ackPend = false) :
    run 4 s = .next { s with inputs := rest, slot := i, sch := .idle, ackPend := false, q := l } :=
  calc run 4 s
      = run 3 { s with
          inputs := line s.cfg .take :: line s.cfg .done :: .sync .retire :: rest, slot := i, sch := .pending } :=
        run_succ (step_deliver_turn hin hq hidle hack) 3
    _ = run 2 { s with inputs := line s.cfg .done :: .sync .retire :: rest, slot := i, sch := .draining } :=
        run_succ (step_take_line rfl rfl) 2
    _ = run 1 { s with inputs := .sync .retire :: rest, slot := i, sch := .idle, ackPend := true } :=
        run_succ (step_done_line rfl rfl) 1
    _ = .next { s with inputs := rest, slot := i, sch := .idle, ackPend := false, q := l } :=
        run_succ (retireRemovesTheFinishedRequest _ rest i l rfl (by exact hq) rfl) 0

/-- Between two rounds: the consumer is idle, and a round is pending for each queued request. -/
structure Serving (s : State) (rest : List Input) : Prop where
  idle : s.sch = .idle
  noAck : s.ackPend = false
  inputs : s.inputs = (s.q.flatMap fun _ => roundLines s.cfg) ++ rest

section round

variable (h : Serving s rest) (hq : s.q = i :: l)
include h hq

theorem Serving.inputs_cons :
    s.inputs = roundLines s.cfg ++ ((l.flatMap fun _ => roundLines s.cfg) ++ rest) := by
  rw [h.inputs, hq, List.flatMap_cons, List.append_assoc]

/-- A round starts by offering the oldest request. -/
theorem Serving.offers : ∃ t, run 1 s = .next t ∧ t.sch = .pending ∧ t.slot = i ∧ t.q = s.q := by
  have hstep := step_deliver_turn (h.inputs_cons hq) hq h.idle h.noAck
  exact ⟨_, run_succ hstep 0, rfl, rfl, rfl⟩

/-- A round takes the oldest request off the queue. -/
theorem Serving.round : ∃ t, run 4 s = .next t ∧ Serving t rest ∧ t.q = l :=
  ⟨_, run_roundLines (h.inputs_cons hq) hq h.idle h.noAck, ⟨rfl, rfl, rfl⟩, rfl⟩

end round

/-- After `k` rounds the `k` oldest requests are served. -/
theorem Serving.rounds (h : Serving s rest) {k : Nat} (hk : k ≤ s.q.length) :
    ∃ t, run (4 * k) s = .next t ∧ Serving t rest ∧ t.q = s.q.drop k := by
  induction k with
  | zero => exact ⟨s, rfl, h, rfl⟩
  | succ k ih =>
    obtain ⟨t, hrun, ht, hqt⟩ := ih (by omega)
    obtain ⟨u, hround, hu, hqu⟩ := ht.round (hqt.trans (List.drop_eq_getElem_cons hk))
    exact ⟨u, by rw [Nat.mul_succ, run_add _ _ hrun, hround], hu, hqu⟩

/-- Settles O49: the `k`-th round offers what stands first when the rounds before it have served the others. -/
theorem requestsAreServedOnceInQueueOrder : Obligations.RequestsAreServedOnceInQueueOrder := by
  unfold Obligations.RequestsAreServedOnceInQueueOrder
  intro s rest hidle hack hin
  have hserving : Serving s rest := ⟨hidle, hack, hin⟩
  refine ⟨fun k i hk => ?offered, ?emptied⟩
  case offered =>
    obtain ⟨hlt, hi⟩ := List.getElem?_eq_some_iff.1 hk
    obtain ⟨t, hrun, ht, hqt⟩ := hserving.rounds (Nat.le_of_lt hlt)
    obtain ⟨u, hoffer, hsch, hslot, hqu⟩ := ht.offers (hqt.trans (List.drop_eq_getElem_cons hlt))
    exact ⟨u, by rw [run_add _ _ hrun, hoffer], hsch, hslot.trans hi, hqu.trans hqt⟩
  case emptied =>
    obtain ⟨t, hrun, ht, hqt⟩ := hserving.rounds (Nat.le_refl _)
    rw [List.drop_length] at hqt
    exact ⟨t, hrun, ht.idle, ht.noAck, hqt, by rw [ht.inputs, hqt]; rfl⟩

end Sys2Proof.Machine
end

section
/-!
The canonical form of the buffer memory (20_memory.md R61, assumption 8): a list of cells by rising offset is
determined by what it reads.
-/

namespace Sys2Proof.Machine

/-- An offset below all that are listed reads nothing. -/
theorem cellGet_eq_none_of_lt {l : List Cell} {k : Nat} (h : ∀ c ∈ l, k < c.1) : cellGet l k = none := by
  induction l with
  | nil => rfl
  | cons c rest ih =>
    obtain ⟨hc, hrest⟩ := List.forall_mem_cons.1 h
    rw [cellGet, if_neg (Nat.ne_of_lt hc), ih hrest]

/-- An offset that reads a value is not below the one listed first. -/
theorem le_of_cellGet_isSome {a b u : Nat} {l : List Cell} (h : ∀ c ∈ l, b < c.1)
    (ha : (cellGet ((b, u) :: l) a).isSome = true) : b ≤ a := by
  refine Nat.le_of_not_lt fun hlt => ?_
  rw [cellGet_eq_none_of_lt (List.forall_mem_cons.2 ⟨hlt, fun c hc => Nat.lt_trans hlt (h c hc)⟩)] at ha
  cases ha

theorem cellGet_head (a v : Nat) (l : List Cell) : cellGet ((a, v) :: l) a = some v := by simp [cellGet]

/-- Two rising lists that read alike are equal. -/
theorem cells_ext {l l' : List Cell} (h : l.Pairwise (fun a b => a.1 < b.1)) (h' : l'.Pairwise (fun a b => a.1 < b.1))
    (hget : ∀ k, cellGet l k = cellGet l' k) : l = l' := by
  induction l generalizing l' with
  | nil =>
    cases l' with
    | nil => rfl
    | cons c' rest' => exact absurd ((hget c'.1).trans (cellGet_head c'.1 c'.2 rest')) (by simp [cellGet])
  | cons c rest ih =>
    obtain ⟨a, v⟩ := c
    cases l' with
    | nil => exact absurd ((hget a).symm.trans (cellGet_head a v rest)) (by simp [cellGet])
    | cons c' rest' =>
      obtain ⟨b, u⟩ := c'
      obtain ⟨hlow, hrest⟩ := List.pairwise_cons.1 h
      obtain ⟨hlow', hrest'⟩ := List.pairwise_cons.1 h'
      have hba : b ≤ a := le_of_cellGet_isSome hlow' (by rw [← hget, cellGet_head]; rfl)
      have hab : a ≤ b := le_of_cellGet_isSome hlow (by rw [hget, cellGet_head]; rfl)
      obtain rfl : a = b := Nat.le_antisymm hab hba
      have hvalue : v = u := by
        have := hget a
        rw [cellGet_head, cellGet_head] at this
        exact Option.some.inj this
      have htail : ∀ k, cellGet rest k = cellGet rest' k := by
        intro k
        by_cases hk : k = a
        · rw [hk, cellGet_eq_none_of_lt hlow, cellGet_eq_none_of_lt hlow']
        · have := hget k
          rwa [cellGet, cellGet, if_neg hk, if_neg hk] at this
      rw [hvalue, ih hrest hrest' htail]

/-- Settles O58: `cells_ext` for each of the two buffers. -/
theorem canonicalMemoriesAreTheirContents : Obligations.CanonicalMemoriesAreTheirContents := by
  unfold Obligations.CanonicalMemoriesAreTheirContents
  rintro ⟨buf0, buf1⟩ ⟨buf0', buf1'⟩ ⟨h0, h1⟩ ⟨h0', h1'⟩ hget
  rw [Memory.mk.injEq]
  exact ⟨cells_ext h0 h0' (hget .b0), cells_ext h1 h1' (hget .b1)⟩

end Sys2Proof.Machine
end

section
/-!
The host's WavWriter (44_host_contract.md R204 to R208): what a file holds when it is closed.
-/

namespace Sys2Proof.Wav

@[simp] theorem leBytes_length (n v : Nat) : (leBytes n v).length = n := by
  induction n generalizing v with
  | zero => rfl
  | succ n ih => rw [leBytes, List.length_cons, ih]

/-- Patching replaces the four bytes that stand at the offset. -/
theorem patch_append {off : Nat} {before : List Byte} (hoff : before.length = off) (old new : Nat) (after : List Byte) :
    patch off new (before ++ leBytes 4 old ++ after) = before ++ leBytes 4 new ++ after := by
  have htake : (before ++ leBytes 4 old ++ after).take off = before := by
    rw [List.append_assoc, ← hoff, List.take_left]
  have hdrop : (before ++ leBytes 4 old ++ after).drop (off + 4) = after := by
    exact List.drop_left' (by rw [List.length_append, leBytes_length, hoff])
  rw [patch, htake, hdrop]

/-- The header's bytes between its two size fields. -/
def format (p : Params) : List Byte :=
  waveId ++ fmtId ++ leBytes 4 16 ++ leBytes 2 1 ++ leBytes 2 p.channels ++
    leBytes 4 p.sampleRate ++ leBytes 4 (p.sampleRate * blockAlign p) ++ leBytes 2 (blockAlign p) ++
    leBytes 2 p.bitsPerSample ++ dataId

/-- The header by its size fields (R206). -/
theorem header_eq (p : Params) (chunkSize dataSize : Nat) :
    header p chunkSize dataSize = riffId ++ leBytes 4 chunkSize ++ format p ++ leBytes 4 dataSize := by
  simp only [header, format, List.append_assoc]

theorem header_length (p : Params) (chunkSize dataSize : Nat) : (header p chunkSize dataSize).length = 44 := by
  simp [header, riffId, waveId, fmtId, dataId]

/-- ChunkSize stands at offset 4 and SubChunk2Size at offset 40 (R207). -/
theorem patch_header (p : Params) (c d c' d' : Nat) (data : List Byte) :
    patch 40 d' (patch 4 c' (header p c d ++ data)) = header p c' d' ++ data := by
  have hchunk : patch 4 c' (header p c d ++ data) = header p c' d ++ data := by
    have := patch_append (off := 4) (before := riffId) rfl c c' (format p ++ leBytes 4 d ++ data)
    simpa only [header_eq, List.append_assoc] using this
  have hlen : (riffId ++ leBytes 4 c' ++ format p).length = 40 := by
    simp [riffId, format, waveId, fmtId, dataId]
  rw [hchunk, header_eq, patch_append hlen, header_eq]

/-- Pieces written without failure stand at the end of the file in order (R204). -/
theorem foldlM_writeBytes (pieces : List (List Byte)) (w : Writer) :
    pieces.foldlM (fun w bytes => writeBytes false bytes w) w = .ok { w with file := w.file ++ pieces.flatten } := by
  induction pieces generalizing w with
  | nil => simp [pure, Except.pure]
  | cons bytes pieces ih =>
    have hwrite : writeBytes false bytes w = .ok { w with file := w.file ++ bytes } := rfl
    rw [List.foldlM_cons, hwrite]
    exact (ih _).trans (by simp)

/-- Settles O59: closing patches the sizes of the data into the provisional header. -/
theorem closedWavFileIsHeaderThenData : Obligations.ClosedWavFileIsHeaderThenData := by
  unfold Obligations.ClosedWavFileIsHeaderThenData
  intro p pieces data
  have hopen : openFile false p = .ok { params := p, file := header p 0 0 } := rfl
  have hsize : (header p 0 0 ++ data).length - 44 = data.length := by
    rw [List.length_append, header_length, Nat.add_sub_cancel_left]
  have hclose : closeFile false { params := p, file := header p 0 0 ++ data } =
      .ok (header p (36 + data.length) data.length ++ data) := by
    rw [← patch_header p 0 0, ← hsize]
    rfl
  rw [hopen]
  refine Eq.trans ?_ hclose
  exact congrArg (· >>= closeFile false) (foldlM_writeBytes pieces { params := p, file := header p 0 0 })

/-- Settles O60: the header evaluated. -/
theorem wavHeaderOfEightyBytes : Obligations.WavHeaderOfEightyBytes := by
  unfold Obligations.WavHeaderOfEightyBytes
  decide

end Sys2Proof.Wav
end

section
/-!
Every enabled internal step is eventually taken (00_scope.md R7): in a quiet environment, by counting the internal
steps that are left; in endless runs, by weak fairness, one clause after another.
-/

namespace Sys2Proof.Machine

variable {s t u : State}

/-! ## FLAGSYNC makes progress -/

/-- How many flags are set. -/
def flagsSet (v : BitVec 5) : Nat := popcount 5 v.toNat

theorem flagsSet_le (v : BitVec 5) : flagsSet v ≤ 5 := popcount_le ..

/-- New flags make more flags. -/
theorem flagsSet_lt_or : ∀ c S : BitVec 5, S ≠ 0#5 → flagsLe S (~~~c) → flagsSet c < flagsSet (c ||| S) := by
  unfold flagsLe
  decide

theorem flagsLe_antisymm {a b : BitVec 5} (h : flagsLe a b) (h' : flagsLe b a) : a = b := by
  rw [flagsLe_iff] at h h'
  rw [← h, BitVec.or_comm, h']

/-- While the views differ a flag is missing in the consumer's. -/
theorem missingFlags_ne_zero (hlags : flagsLe s.flagsC s.flagsP) (hne : s.flagsC ≠ s.flagsP) : missingFlags s ≠ 0#5 :=
  fun hzero => hne (flagsLe_antisymm hlags hzero)

/-- Each FLAGSYNC sets a flag in the consumer's view. -/
theorem flagsSet_flagsync_lt (choice : BitVec 5) (hlags : flagsLe s.flagsC s.flagsP) (hne : s.flagsC ≠ s.flagsP) :
    flagsSet s.flagsC < flagsSet (flagsync choice s).flagsC := by
  have hnew : flagsLe (missingFlags s) (~~~s.flagsC) := by simp [flagsLe, missingFlags, BitVec.and_assoc]
  exact flagsSet_lt_or _ _ (copiedFlags_ne_zero choice (missingFlags_ne_zero hlags hne))
    (flagsLe_trans (copiedFlags_le choice s) hnew)

/-! ## A quiet environment -/

/-- A bound on the internal steps that can still be taken while SRC and HOST rest: RUNSYNC, FLAGSYNC for each flag,
RETIRE, and one of DELIVER and QUIESCE. -/
def workLeft (s : State) : Nat :=
  (s.runP != s.runReq).toNat + (5 - flagsSet s.flagsC) + s.ackPend.toNat + (s.sch == .idle).toNat

theorem workLeft_le (s : State) : workLeft s ≤ 8 := by
  have hrun := Bool.toNat_le (s.runP != s.runReq)
  have hack := Bool.toNat_le s.ackPend
  have hidle := Bool.toNat_le (s.sch == .idle)
  unfold workLeft
  omega

/-- Each internal step does a part of the work. -/
theorem StateInv.workLeft_lt (h : StateInv s) {k : SyncStep} (hk : syncEnabled k s = true) :
    workLeft (syncEffect k s) < workLeft s := by
  rw [syncEnabled_iff] at hk
  cases k with
  | runsync =>
    obtain ⟨hdiffer, -⟩ := hk
    have hbefore : (s.runP != s.runReq) = true := bne_iff_ne.2 hdiffer
    simp only [workLeft, syncEffect, runsync, hbefore, bne_self_eq_false, Bool.toNat_true, Bool.toNat_false]
    omega
  | deliver =>
    obtain ⟨-, hidle, -⟩ := hk
    simp [workLeft, syncEffect, hidle]
  | retire =>
    have hack : s.ackPend = true := hk
    simp only [workLeft, syncEffect, retire, hack, Bool.toNat_true, Bool.toNat_false]
    omega
  | flagsync choice =>
    have hlt := flagsSet_flagsync_lt choice h.viewLags hk
    have hle := flagsSet_le (flagsync choice s).flagsC
    simp only [workLeft, syncEffect, flagsync] at hlt hle ⊢
    omega
  | quiesce =>
    obtain ⟨-, -, -, hidle, -⟩ := hk
    simp [workLeft, syncEffect, hidle]

/-- The quiet environment comes to rest when the work is done. -/
theorem StateInv.comes_to_rest (h : StateInv s) (hin : s.inputs = []) {n : Nat} (hn : workLeft s ≤ n) :
    ∃ m t, m ≤ n ∧ run m s = .next t ∧ ∀ k, syncEnabled k t = false := by
  induction n generalizing s with
  | zero =>
    refine ⟨0, s, Nat.le_refl _, rfl, fun k => Bool.eq_false_of_not_eq_true fun hk => ?_⟩
    have := h.workLeft_lt hk
    omega
  | succ n ih =>
    by_cases hrest : ∀ k, syncEnabled k s = false
    · exact ⟨0, s, Nat.zero_le _, rfl, hrest⟩
    · obtain ⟨k, hk, hquiet⟩ := quietStep_enabled (by simpa using hrest)
      have hlt := h.workLeft_lt hk
      have hinputs : (syncEffect k s).inputs = [] := by cases k <;> exact hin
      have hinv := (h.after_syncEffect hk).of_model (syncEffect k s).inputs (s.draws + 1)
      obtain ⟨m, t, hm, hrun, ht⟩ := ih hinv hinputs (Nat.le_of_lt_succ (Nat.lt_of_lt_of_le hlt hn))
      refine ⟨m + 1, t, Nat.succ_le_succ hm, ?_, ht⟩
      rw [run_succ (step_quiet hin), hquiet, hrun]

/-- Where no internal step is enabled, no queued request waits in IDLE: either RETIRE or DELIVER would be enabled. -/
theorem sch_ne_idle_of_rest (hrest : ∀ k, syncEnabled k t = false) (hq : t.q ≠ []) : t.sch ≠ .idle := by
  intro hidle
  have hack : t.ackPend = false := hrest .retire
  exact Bool.false_ne_true ((hrest .deliver).symm.trans ((syncEnabled_iff .deliver t).2 ⟨hq, hidle, hack⟩))

/-! ## What transitions keep until they reach a goal -/

theorem eq_of_sameStep {k k' : SyncStep} (h : sameStep k k' = true) (hk : ∀ choice, k ≠ .flagsync choice) : k' = k := by
  cases k with
  | flagsync choice => exact absurd rfl (hk choice)
  | runsync | deliver | retire | quiesce =>
    revert h
    cases k' <;> simp [sameStep]

/-- A request that can be offered: `i` stands first, and nothing holds DELIVER off. -/
structure Offerable (i : BufIdx) (s : State) : Prop where
  head : s.q.head? = some i
  idle : s.sch = .idle
  noAck : s.ackPend = false

theorem Offerable.q_ne_nil {i : BufIdx} (h : Offerable i s) : s.q ≠ [] := by
  intro hq
  have hhead := h.head
  simp [hq] at hhead

/-- Such a request stays so until it is offered. -/
theorem Move.offerable {a : Agent} {i : BufIdx} (hmove : Move a s u) (ha : a ≠ .rst) (h : Offerable i s) :
    Offerable i u ∨ u.sch = .pending ∧ u.slot = i := by
  cases a with
  | src =>
    have hsame := hmove.consumerSame
    refine .inl ⟨?_, hsame.sch.trans h.idle, hsame.ackPend.trans h.noAck⟩
    obtain hq | ⟨hq, -⟩ := hmove.src_queue_cases <;> simp [hq, h.head]
  | host =>
    cases hmove with
    | stay | reject | start | stop | rdata => exact .inl { h with }
    | take _ hpending => exact absurd (h.idle.symm.trans hpending) (by decide)
    | done _ hdraining => exact absurd (h.idle.symm.trans hdraining) (by decide)
  | sync =>
    cases hmove with
    | stay => exact .inl h
    | internal k _ hk =>
      cases k with
      | runsync | flagsync => exact .inl { h with }
      | deliver => exact .inr ⟨rfl, by simp [syncEffect, h.head]⟩
      | retire => exact absurd (h.noAck.symm.trans hk) Bool.false_ne_true
      | quiesce =>
        obtain ⟨-, -, hq, -⟩ := (syncEnabled_iff .quiesce s).1 hk
        exact absurd hq h.q_ne_nil
  | rst => exact absurd rfl ha

/-- The flags `v` are raised and not all of them visible yet, in a consumer's view `c`. -/
structure FlagsBehind (v c : BitVec 5) (s : State) : Prop where
  inv : StateInv s
  raised : flagsLe v s.flagsP
  behind : ¬flagsLe v s.flagsC
  view : s.flagsC = c

theorem FlagsBehind.differ {v c : BitVec 5} (h : FlagsBehind v c s) : s.flagsC ≠ s.flagsP :=
  fun heq => h.behind (heq ▸ h.raised)

/-- A move of an agent but RST leaves the consumer's view as it is or is a FLAGSYNC. -/
theorem Move.flagsC_cases {a : Agent} (hmove : Move a s u) (ha : a ≠ .rst) :
    u.flagsC = s.flagsC ∨ ∃ choice, s.flagsC ≠ s.flagsP ∧ u = flagsync choice s := by
  cases a with
  | src => exact .inl hmove.consumerSame.flagsC
  | host => cases hmove <;> exact .inl rfl
  | sync =>
    cases hmove with
    | stay => exact .inl rfl
    | internal k _ hk =>
      cases k with
      | flagsync choice => exact .inr ⟨choice, (syncEnabled_iff (.flagsync choice) s).1 hk, rfl⟩
      | runsync | deliver | retire | quiesce => exact .inl rfl
  | rst => exact absurd rfl ha

theorem Move.flagsBehind {a : Agent} {v c : BitVec 5} (hmove : Move a s u) (ha : a ≠ .rst) (h : FlagsBehind v c s) :
    FlagsBehind v c u ∨ flagsSet c < flagsSet u.flagsC := by
  have hraised := flagsLe_trans h.raised (hmove.flagsKept ha h.inv).flagsP
  obtain hview | ⟨choice, hdiffer, rfl⟩ := hmove.flagsC_cases ha
  · exact .inl ⟨hmove.stateInv h.inv, hraised, hview ▸ h.behind, hview.trans h.view⟩
  · exact .inr (h.view ▸ flagsSet_flagsync_lt choice h.inv.viewLags hdiffer)

/-- A START has reached the producer, or a STOP or an abort has overtaken it (43_control_status.md R171, R176). -/
def StartTaken (s : State) : Prop := s.runP = true ∨ s.stopReq = true ∨ s.abortP = true

/-- A START is on its way to the producer. -/
structure StartPending (s : State) : Prop where
  inv : StateInv s
  requested : s.runReq = true
  waiting : ¬StartTaken s

theorem StartPending.enabled (h : StartPending s) : syncEnabled .runsync s = true := by
  have hrun : s.runP ≠ s.runReq := fun heq => h.waiting (.inl (heq.trans h.requested))
  have hsch : s.sch ≠ .stopped := by
    intro hstopped
    obtain ⟨-, -, -, -, hcause⟩ := h.inv.stoppedFinal hstopped
    exact h.waiting (.inr hcause)
  exact (syncEnabled_iff .runsync s).2 ⟨hrun, isFrozen_of_sch hsch⟩

theorem Move.startPending {a : Agent} (hmove : Move a s u) (ha : a ≠ .rst) (h : StartPending s) :
    StartPending u ∨ StartTaken u := by
  by_cases htaken : StartTaken u
  · exact .inr htaken
  · have hrequest := hmove.keeps_request ha (.inl h.requested)
    exact .inl ⟨hmove.stateInv h.inv, hrequest.resolve_right fun hstop => htaken (.inr (.inl hstop)), htaken⟩

/-- A STOP is not taken back but by RESET. -/
theorem Move.keeps_stopReq {a : Agent} (hmove : Move a s u) (ha : a ≠ .rst) (h : s.stopReq = true) :
    u.stopReq = true := by
  cases a with
  | src => exact hmove.consumerSame.stopReq.trans h
  | host =>
    cases hmove with
    | stay | reject | start | take | done | rdata => exact h
    | stop => rfl
  | sync =>
    cases hmove with
    | stay => exact h
    | internal k =>
      cases k with
      | runsync | deliver | retire | flagsync | quiesce => exact h
  | rst => exact absurd rfl ha

/-- A STOP is on its way to a producer that captures. -/
structure StopPending (s : State) : Prop where
  inv : StateInv s
  stopped : s.stopReq = true
  capturing : s.cap = true

theorem StopPending.enabled (h : StopPending s) : syncEnabled .runsync s = true := by
  obtain ⟨hrun, -⟩ := (cap_iff s).1 h.capturing
  have hreq := h.inv.stopHeld h.stopped
  exact (syncEnabled_iff .runsync s).2 ⟨by rw [hrun, hreq]; decide, isFrozen_of_sch (h.inv.not_stopped h.capturing)⟩

theorem Move.stopPending {a : Agent} (hmove : Move a s u) (ha : a ≠ .rst) (h : StopPending s) :
    StopPending u ∨ u.cap = false := by
  cases hcap : u.cap with
  | false => exact .inr rfl
  | true => exact .inl ⟨hmove.stateInv h.inv, hmove.keeps_stopReq ha h.stopped, hcap⟩

/-- QUIESCE waits for nothing but the flags, which stand at `p` (43_control_status.md R178). -/
structure Quiescing (p : BitVec 5) (s : State) : Prop where
  inv : StateInv s
  cause : s.stopReq = true ∨ s.abortP = true
  noCap : s.cap = false
  empty : s.q = []
  idle : s.sch = .idle
  flags : s.flagsP = p

/-- That stays so until STOPPED is entered. -/
theorem Move.quiescing {a : Agent} {p : BitVec 5} (hmove : Move a s u) (ha : a ≠ .rst) (h : Quiescing p s) :
    Quiescing p u ∨ u.sch = .stopped := by
  have hinv := hmove.stateInv h.inv
  cases hmove with
  | stay => exact .inl h
  | accept _ _ hcap | overflow _ hcap | both _ _ hcap => exact absurd (h.noCap.symm.trans hcap) Bool.false_ne_true
  | reject | start | rdata => exact .inl { h with inv := hinv }
  | stop => exact .inl { h with inv := hinv, cause := .inl rfl }
  | take _ hpending => exact absurd (h.idle.symm.trans hpending) (by decide)
  | done _ hdraining => exact absurd (h.idle.symm.trans hdraining) (by decide)
  | reset => exact absurd rfl ha
  | internal k _ hk =>
    cases k with
    | runsync => exact .inl { h with inv := hinv, noCap := h.inv.runsync_cap h.cause }
    | deliver =>
      obtain ⟨hq, -⟩ := (syncEnabled_iff .deliver s).1 hk
      exact absurd h.empty hq
    | retire =>
      obtain ⟨hq, -⟩ := h.inv.ackHeld hk
      exact absurd h.empty hq
    | flagsync => exact .inl { h with inv := hinv }
    | quiesce => exact .inr rfl

/-- QUIESCE is enabled: the flags have caught up. -/
structure QuiesceReady (p : BitVec 5) (s : State) : Prop extends Quiescing p s where
  caughtUp : s.flagsC = p

theorem QuiesceReady.enabled {p : BitVec 5} (h : QuiesceReady p s) : syncEnabled .quiesce s = true :=
  (syncEnabled_iff .quiesce s).2 ⟨h.cause, h.noCap, h.empty, h.idle, h.caughtUp.trans h.flags.symm⟩

theorem Move.quiesceReady {a : Agent} {p : BitVec 5} (hmove : Move a s u) (ha : a ≠ .rst) (h : QuiesceReady p s) :
    QuiesceReady p u ∨ u.sch = .stopped := by
  refine (hmove.quiescing ha h.toQuiescing).imp (fun hu => ⟨hu, ?_⟩) id
  have hkept := (hmove.flagsKept ha h.inv).flagsC
  have hlags := hu.inv.viewLags
  rw [h.caughtUp] at hkept
  rw [hu.flags] at hlags
  exact flagsLe_antisymm hlags hkept

/-- STOPPED is not left but by RESET. -/
theorem Move.quiescing_or_stopped {a : Agent} {p : BitVec 5} (hmove : Move a s u) (ha : a ≠ .rst)
    (h : Quiescing p s ∨ StateInv s ∧ s.sch = .stopped) : Quiescing p u ∨ StateInv u ∧ u.sch = .stopped := by
  obtain h | ⟨hinv, hstopped⟩ := h
  · exact (hmove.quiescing ha h).imp id fun hstopped => ⟨hmove.stateInv h.inv, hstopped⟩
  · refine .inr ⟨hmove.stateInv hinv, ?_⟩
    cases hmove.of_stopped ha hinv hstopped with
    | reads _ _ heq | stop _ heq | runsync _ heq => rw [heq]; exact hstopped

/-! ## Endless runs -/

section endless

variable {σ : Nat → State} {α : Nat → Input} {n : Nat}
  (hrun : EndlessRun σ α) (hfair : WeaklyFair σ α) (hrst : ∀ m, n ≤ m → α m ≠ .rst)

include hrun hrst in
/-- Along an endless run the invariants stay and the flags are kept. -/
theorem EndlessRun.invariants (h : StateInv (σ n)) (m : Nat) (hm : n ≤ m) :
    StateInv (σ m) ∧ FlagsKept (σ n) (σ m) :=
  hrun.keeps (P := fun s => StateInv s ∧ FlagsKept (σ n) s)
    (fun _ l d ⟨hinv, hkept⟩ => ⟨hinv.of_model l d, { hkept with }⟩)
    (fun _ _ _ ha hmove ⟨hinv, hkept⟩ => ⟨hmove.stateInv hinv, hkept.trans (hmove.flagsKept ha hinv)⟩)
    hrst ⟨h, FlagsKept.refl _⟩ m hm

include hrun hfair hrst

theorem EndlessRun.retires (hack : (σ n).ackPend = true) : ∃ m, n ≤ m ∧ (σ m).ackPend = false :=
  WeaklyFair.leads_to (P := fun s => s.ackPend = true) (Q := fun s => s.ackPend = false) .retire
    (fun _ _ _ h => h) (fun _ _ _ h => h) (fun _ h => h)
    (fun _ _ u _ _ _ => Bool.eq_false_or_eq_true u.ackPend)
    (fun _ _ hk _ => by rw [eq_of_sameStep hk nofun]; rfl) hrun hfair hrst hack

theorem EndlessRun.offers {i : BufIdx} (h : Offerable i (σ n)) :
    ∃ m, n ≤ m ∧ (σ m).sch = .pending ∧ (σ m).slot = i :=
  WeaklyFair.leads_to (P := Offerable i) (Q := fun s => s.sch = .pending ∧ s.slot = i) .deliver
    (fun _ _ _ h => { h with }) (fun _ _ _ h => h)
    (fun s h => (syncEnabled_iff .deliver s).2 ⟨h.q_ne_nil, h.idle, h.noAck⟩)
    (fun _ _ _ ha hmove h => hmove.offerable ha h)
    (fun _ _ hk h => by rw [eq_of_sameStep hk nofun]; exact ⟨rfl, by simp [syncEffect, h.head]⟩) hrun hfair hrst h

/-- As long as raised flags are not all visible, some further flag becomes visible. -/
theorem EndlessRun.copies_a_flag {v : BitVec 5} (h : FlagsBehind v (σ n).flagsC (σ n)) :
    ∃ m, n ≤ m ∧ flagsSet (σ n).flagsC < flagsSet (σ m).flagsC :=
  WeaklyFair.leads_to (P := FlagsBehind v (σ n).flagsC) (Q := fun s => flagsSet (σ n).flagsC < flagsSet s.flagsC)
    (.flagsync 0#5)
    (fun _ l d h => { h with inv := h.inv.of_model l d }) (fun _ _ _ h => h)
    (fun s h => (syncEnabled_iff (.flagsync 0#5) s).2 h.differ)
    (fun _ _ _ ha hmove h => hmove.flagsBehind ha h)
    (fun _ k' hk h => by
      cases k' with
      | flagsync choice => exact h.view ▸ flagsSet_flagsync_lt choice h.inv.viewLags h.differ
      | runsync | deliver | retire | quiesce => cases hk) hrun hfair hrst h

theorem EndlessRun.starts (h : StateInv (σ n)) (hreq : (σ n).runReq = true) : ∃ m, n ≤ m ∧ StartTaken (σ m) := by
  by_cases htaken : StartTaken (σ n)
  · exact ⟨n, Nat.le_refl n, htaken⟩
  · exact WeaklyFair.leads_to (P := StartPending) (Q := StartTaken) .runsync
      (fun _ l d h => { h with inv := h.inv.of_model l d }) (fun _ _ _ h => h) (fun _ h => h.enabled)
      (fun _ _ _ ha hmove h => hmove.startPending ha h)
      (fun _ _ hk h => by rw [eq_of_sameStep hk nofun]; exact .inl h.requested) hrun hfair hrst ⟨h, hreq, htaken⟩

theorem EndlessRun.stops (h : StateInv (σ n)) (hstop : (σ n).stopReq = true) : ∃ m, n ≤ m ∧ (σ m).cap = false := by
  cases hcap : (σ n).cap with
  | false => exact ⟨n, Nat.le_refl n, hcap⟩
  | true =>
    exact WeaklyFair.leads_to (P := StopPending) (Q := fun s => s.cap = false) .runsync
      (fun _ l d h => { h with inv := h.inv.of_model l d }) (fun _ _ _ h => h) (fun _ h => h.enabled)
      (fun _ _ _ ha hmove h => hmove.stopPending ha h)
      (fun s _ hk h => by
        have hreq := h.inv.stopHeld h.stopped
        rw [eq_of_sameStep hk nofun]
        simp [State.cap, syncEffect, hreq]) hrun hfair hrst ⟨h, hstop, hcap⟩

theorem EndlessRun.quiesces_when_ready {p : BitVec 5} (h : QuiesceReady p (σ n)) :
    ∃ m, n ≤ m ∧ (σ m).sch = .stopped :=
  WeaklyFair.leads_to (P := QuiesceReady p) (Q := fun s => s.sch = .stopped) .quiesce
    (fun _ l d h => { h with inv := h.inv.of_model l d }) (fun _ _ _ h => h) (fun _ h => h.enabled)
    (fun _ _ _ ha hmove h => hmove.quiesceReady ha h)
    (fun _ _ hk _ => by rw [eq_of_sameStep hk nofun]; rfl) hrun hfair hrst h

end endless

variable {σ : Nat → State} {α : Nat → Input} {n : Nat}

/-- Raised flags become visible: each FLAGSYNC copies some, and there are five. -/
theorem EndlessRun.flags_catch_up (hrun : EndlessRun σ α) (hfair : WeaklyFair σ α) (hrst : ∀ m, n ≤ m → α m ≠ .rst)
    (h : StateInv (σ n)) {v : BitVec 5} (hv : flagsLe v (σ n).flagsP) : ∃ m, n ≤ m ∧ flagsLe v (σ m).flagsC := by
  induction hleft : 5 - flagsSet (σ n).flagsC using Nat.strong_induction_on generalizing n with
  | _ left ih =>
    by_cases hseen : flagsLe v (σ n).flagsC
    · exact ⟨n, Nat.le_refl n, hseen⟩
    · obtain ⟨m, hm, hmore⟩ := hrun.copies_a_flag hfair hrst ⟨h, hv, hseen, rfl⟩
      obtain ⟨hinv, hkept⟩ := hrun.invariants hrst h m hm
      have hbound := flagsSet_le (σ m).flagsC
      obtain ⟨m', hm', hseen'⟩ := ih (5 - flagsSet (σ m).flagsC) (by omega)
        (fun j hj => hrst j (Nat.le_trans hm hj)) hinv (flagsLe_trans hv hkept.flagsP) rfl
      exact ⟨m', Nat.le_trans hm hm', hseen'⟩

/-- STOPPED is entered: the producer raises no more flags, so the consumer's view catches up, and then QUIESCE is
enabled. -/
theorem EndlessRun.quiesces (hrun : EndlessRun σ α) (hfair : WeaklyFair σ α) (hrst : ∀ m, n ≤ m → α m ≠ .rst)
    {p : BitVec 5} (h : Quiescing p (σ n)) : ∃ m, n ≤ m ∧ (σ m).sch = .stopped := by
  obtain ⟨m, hm, hseen⟩ := hrun.flags_catch_up hfair hrst h.inv (v := p) (h.flags ▸ flagsLe_refl _)
  have hkept := hrun.keeps (P := fun s => Quiescing p s ∨ StateInv s ∧ s.sch = .stopped)
    (fun _ l d h =>
      h.imp (fun h => { h with inv := h.inv.of_model l d }) (fun ⟨hinv, hsch⟩ => ⟨hinv.of_model l d, hsch⟩))
    (fun _ _ _ ha hmove h => hmove.quiescing_or_stopped ha h) hrst (.inl h) m hm
  obtain hstill | ⟨-, hstopped⟩ := hkept
  · have hlags := hstill.inv.viewLags
    rw [hstill.flags] at hlags
    obtain ⟨m', hm', hstopped⟩ := hrun.quiesces_when_ready hfair (fun j hj => hrst j (Nat.le_trans hm hj))
      ⟨hstill, flagsLe_antisymm hlags hseen⟩
    exact ⟨m', Nat.le_trans hm hm', hstopped⟩
  · exact ⟨m, hm, hstopped⟩

/-- A flag is set in a view exactly when its mask is a part of the view. -/
theorem hasFlag_iff_mask_le (v : BitVec 5) (f : PFlag) : hasFlag v f = true ↔ flagsLe f.mask v := by
  refine ⟨fun h => ?_, fun h => flagsLe_hasFlag h (by simp)⟩
  unfold flagsLe
  revert v
  cases f with
  | ovf | miss | lost | red | abt => decide

/-- Settles O55: the quiet environment by the work that is left, the endless runs clause by clause. -/
theorem enabledInternalStepsAreEventuallyTaken : Obligations.EnabledInternalStepsAreEventuallyTaken := by
  unfold Obligations.EnabledInternalStepsAreEventuallyTaken
  refine ⟨fun s hinv hin => ?quiet, fun σ α n hrun hfair hinv hrst => ?endless⟩
  case quiet =>
    obtain ⟨m, t, hm, hrun, hrest⟩ := hinv.comes_to_rest hin (workLeft_le s)
    exact ⟨m, t, hm, hrun, hrest, sch_ne_idle_of_rest hrest⟩
  case endless =>
    refine ⟨hrun.retires hfair hrst, fun i l hq hidle hack => ?offer, fun f hf => ?flag, hrun.starts hfair hrst hinv,
      hrun.stops hfair hrst hinv, fun hcause hcap hq hidle => ?quiesce⟩
    case offer => exact hrun.offers hfair hrst ⟨by rw [hq]; rfl, hidle, hack⟩
    case flag =>
      obtain ⟨m, hm, hseen⟩ := hrun.flags_catch_up hfair hrst hinv ((hasFlag_iff_mask_le _ f).1 hf)
      exact ⟨m, hm, (hasFlag_iff_mask_le _ f).2 hseen⟩
    case quiesce => exact hrun.quiesces hfair hrst ⟨hinv, hcause, hcap, hq, hidle, rfl⟩

end Sys2Proof.Machine
end
